-- ==== Sys2Proof/Word.lean ====
section
/-! DEFINITION. The bit-vector types of the block's ports and registers (spec/00_scope.md rules R8, R9). -/

namespace Sys2Proof

/-- A byte: an opcode, an operand byte, a register address or a register value (R9, R40). -/
abbrev Byte := BitVec 8

/-- A 32-bit operand port (R8). -/
abbrev Word := BitVec 32

/-- A command frame: the bytes of one command, as the host delivers them (R60). -/
abbrev Frame := List Byte

end Sys2Proof
end

