-- ==== Sys2Proof/Config.lean ====
section
/-! DEFINITION. What an implementation fixes and what the spec leaves free: the platform parameters of spec/00_scope.md rule R7
with their well-formedness, and the opaque constants that stand for values no source gives. -/

namespace Sys2Proof

/-- The two PLLs (R8: `pll` 0 selects A and 1 selects B). -/
inductive Pll where
  | a
  | b
deriving DecidableEq, Repr, Inhabited

/-- The three channels the block configures (R18, R142). -/
inductive Channel where
  | ch0
  | ch1
  | ch2
deriving DecidableEq, Repr, Inhabited

/-- The transport's answer to one register write (R43). -/
inductive WriteOutcome where
  | ok
  | err
deriving DecidableEq, Repr, Inhabited

/-- One entry of `LOG`: a write the block attempted and what the transport answered (R29). -/
structure LogEntry where
  addr : Byte
  val : Byte
  outcome : WriteOutcome
deriving DecidableEq, Repr, Inhabited

/-- `CTRL_LAYOUT`: the bit positions of the clock-control byte's fields and its constant bits (R70). -/
structure CtrlLayout where
  posInt : Nat
  posSrc : Nat
  posInv : Nat
  posDrv : Nat
  const : Byte
deriving DecidableEq, Repr, Inhabited

/-- The three register addresses of a channel: control, first divider register, phase offset (R7, R49). -/
structure ChannelRegs where
  ctrl : Byte
  ms : Byte
  phase : Byte
deriving DecidableEq, Repr, Inhabited

/-- The addresses of a PLL: its first divider register, and the optional integer-mode write (R7, R148). -/
structure PllRegs where
  base : Byte
  intAddr : Byte
  intVal : Byte
deriving DecidableEq, Repr, Inhabited

/-- The parameters of R7, as a configuration proposes them. -/
structure PlatformParams where
  ch0 : ChannelRegs
  ch1 : ChannelRegs
  ch2 : ChannelRegs
  pllA : PllRegs
  pllB : PllRegs
  pllReset : Byte
  pllResetVal : Byte
  oe : Byte
  layout : CtrlLayout
  pllIntOpt : Bool
deriving DecidableEq, Repr, Inhabited

/-- The bit of a one-bit control field at position `pos`. -/
def CtrlLayout.bitMask (pos : Nat) : Byte := 1#8 <<< pos

/-- The two bits of the drive field at position `pos`. -/
def CtrlLayout.driveMask (pos : Nat) : Byte := 3#8 <<< pos

/-- R70: the four field positions lie in the byte and overlap neither each other nor `CTRL_CONST`. -/
def CtrlLayout.disjoint (l : CtrlLayout) : Bool :=
  let i := CtrlLayout.bitMask l.posInt
  let s := CtrlLayout.bitMask l.posSrc
  let v := CtrlLayout.bitMask l.posInv
  let d := CtrlLayout.driveMask l.posDrv
  decide (l.posInt < 8) && decide (l.posSrc < 8) && decide (l.posInv < 8) && decide (l.posDrv < 7)
    && i &&& s == 0 && i &&& v == 0 && i &&& d == 0 && s &&& v == 0 && s &&& d == 0 && v &&& d == 0
    && l.const &&& (i ||| s ||| v ||| d) == 0

/-- R7, R46: an 8-byte image at this base does not pass address 255. -/
def imageFits (base : Byte) : Bool := decide (base.toNat + 7 ≤ 255)

/-- The parameters obey R7's `base + 7 ≤ 255` and R70's non-overlap. -/
def PlatformParams.wellFormed (p : PlatformParams) : Bool :=
  imageFits p.ch0.ms && imageFits p.ch1.ms && imageFits p.ch2.ms && imageFits p.pllA.base && imageFits p.pllB.base
    && p.layout.disjoint

/-- The reference platform of R7, R70 and R73. It is one instantiation, used by the test vectors of
spec/95_test_vectors.md (and as the inhabitant Lean asks for before it takes an opaque constant).
DESIGN CHOICE, safe, log entry 15: no source gives its `ADDR_PLL_INT(p)` and `VAL_PLL_INT(p)`, and the model fills in 0 for
both PLLs; with `PLL_INT_OPT` false no write uses them (R148). -/
def referenceParams : PlatformParams where
  ch0 := ⟨16, 42, 165⟩
  ch1 := ⟨17, 50, 166⟩
  ch2 := ⟨18, 58, 167⟩
  pllA := ⟨26, 0, 0⟩
  pllB := ⟨34, 0, 0⟩
  pllReset := 177
  pllResetVal := 0xA0
  oe := 3
  layout := ⟨6, 5, 4, 0, 0x0C⟩
  pllIntOpt := false

/-- A platform: parameters together with the proof that they are well formed. R46: a configuration that broke the
constraint is refused at configuration time, so none can be built. -/
structure Platform where
  params : PlatformParams := referenceParams
  wellFormed : params.wellFormed = true := by decide
deriving DecidableEq, Repr, Inhabited

/-- The reference platform (R7). -/
def Platform.reference : Platform := ⟨referenceParams, by decide⟩

/-- Configuration time (R46): well-formed parameters make a platform, any others are refused. -/
def Platform.configure (p : PlatformParams) : Option Platform :=
  if h : p.wellFormed = true then some ⟨p, h⟩ else none

/-- The platform the block is built for: any well-formed one. No body: nothing can be proved of its values.
DESIGN CHOICE, safe, log entry 2. -/
opaque Config.platform : Platform

/-- `CORR` right after reset: any 32-bit value (R33, R190). No body. DESIGN CHOICE, safe, log entry 1. -/
opaque Config.corrAtReset : Word

/-- R43's `TransportOracle(LOG, addr, val)`: the transport's answer to a write, a free draw. No body.
DESIGN CHOICE, safe, log entry 3. -/
opaque Config.transportOracle : List LogEntry → Byte → Byte → WriteOutcome

end Sys2Proof
end

