-- ==== Sys2Proof/Syntax.lean ====
section
/-! DEFINITION. The commands of the block, one constructor per row of spec/opcode_table.json, with the operands and widths of
spec/30_encoding.md rule R62 (spec/00_scope.md rule R8). -/

namespace Sys2Proof

/-- A command with its operands. Each operand's type is its port's width (R62), so an operand always fits. -/
inductive Instr where
  /-- `SETCORR corr:s32` (R140). -/
  | setcorr (corr : Word)
  /-- `PLAN f:u32` (R95). -/
  | plan (f : Word)
  /-- `PLANIQ f:u32` (R101). -/
  | planiq (f : Word)
  /-- `PCALC i:u32, n:u32, d:u32, ms:u1` (R122). -/
  | pcalc (i n d : Word) (ms : Bool)
  /-- `ENCODE p1:u32, p2:u32, p3:u32, d4:u2, rdiv:u3` (R127). -/
  | encode (p1 p2 p3 : Word) (d4 : BitVec 2) (rdiv : BitVec 3)
  /-- `CFGCH ch:u8, pll:u1, drive:u2, inv:u1, div:u32, y:u32, z:u32, rdiv:u3, ai:u1, phase:u8` (R141). -/
  | cfgch (ch : Byte) (pll : Pll) (drive : BitVec 2) (inv : Bool) (div y z : Word) (rdiv : BitVec 3) (ai : Bool)
      (phase : Byte)
  /-- `CFGPLL pll:u1, mult:u32, num:u32, denom:u32` (R146). -/
  | cfgpll (pll : Pll) (mult num denom : Word)
  /-- `SETOE mask:u8` (R151). -/
  | setoe (mask : Byte)
  /-- `SETUP ch:u8, f:u32, drive:u2` (R152). -/
  | setup (ch : Byte) (f : Word) (drive : BitVec 2)
deriving DecidableEq, Repr, Inhabited

end Sys2Proof
end

