-- ==== Sys2Proof/WellFormed.lean ====
section
/-! DEFINITION. Which frames are well formed, from the operand table alone (spec/30_encoding.md rules R60 to R64). The operand
types of `Instr` carry their widths, so every `Instr` is well formed; what can be ill formed is the host's frame. -/

namespace Sys2Proof

/-- The operand widths of each opcode in frame order (R61, R62); `none` for a reserved opcode (R63). -/
def operandWidths (op : Byte) : Option (List Nat) :=
  match op.toNat with
  | 1 => some [32]
  | 2 => some [32]
  | 3 => some [32]
  | 4 => some [32, 32, 32, 1]
  | 5 => some [32, 32, 32, 2, 3]
  | 6 => some [8, 1, 2, 1, 32, 32, 32, 3, 1, 8]
  | 7 => some [1, 32, 32, 32]
  | 8 => some [8]
  | 9 => some [8, 32, 2]
  | _ => none

/-- The bytes an operand of width `w` occupies, `ceil(w/8)` (R60). -/
def operandBytes (w : Nat) : Nat := (w + 7) / 8

/-- The number held by bytes, the most significant first (R60). -/
def bigEndian (bs : List Byte) : Nat := bs.foldl (fun n b => 256 * n + b.toNat) 0

/-- The bytes are exactly the operands of these widths, and no operand has a bit above its width (R60, R62). -/
def operandsFit : List Nat → List Byte → Bool
  | [], bs => bs.isEmpty
  | w :: ws, bs =>
    let k := operandBytes w
    decide (k ≤ bs.length) && decide (bigEndian (bs.take k) < 2 ^ w) && operandsFit ws (bs.drop k)

/-- A well-formed frame (R62, R63): a defined opcode followed by exactly its operands. -/
def frameWellFormed (fr : Frame) : Bool :=
  match fr with
  | [] => false
  | op :: rest =>
    match operandWidths op with
    | none => false
    | some ws => operandsFit ws rest

end Sys2Proof
end

