-- ==== Sys2Proof/Decode.lean ====
section
/-! DEFINITION. Decoding a command frame, total on any bytes and rejecting by name, and the encoder (spec/30_encoding.md rules R60
to R64, spec/60_exceptions.md rule R174). -/

namespace Sys2Proof

/-- Why a frame is no command (R174). All of these raise the one fault IllegalCommand. -/
inductive Malformed where
  /-- No byte 0: fewer bytes than any command's length. -/
  | empty
  /-- Byte 0 is a reserved opcode (R63). -/
  | reservedOpcode (op : Byte)
  /-- The frame's length is not its opcode's (R62). -/
  | wrongLength (op : Byte)
  /-- Some operand has a nonzero bit above its width (R62). -/
  | unusedBits (op : Byte)
deriving DecidableEq, Repr

/-- The frame length of each opcode (R62, the table's last column); `none` for a reserved opcode. -/
def frameBytes (op : Byte) : Option Nat :=
  match op.toNat with
  | 1 => some 5
  | 2 => some 5
  | 3 => some 5
  | 4 => some 14
  | 5 => some 15
  | 6 => some 20
  | 7 => some 14
  | 8 => some 2
  | 9 => some 7
  | _ => none

/-- Four operand bytes as a 32-bit word, the most significant first (R60). -/
def wordOf (b3 b2 b1 b0 : Byte) : Word := b3 ++ b2 ++ b1 ++ b0

/-- The four bytes of a 32-bit operand, the most significant first (R60). -/
def bytesOf (w : Word) : List Byte :=
  [w.extractLsb' 24 8, w.extractLsb' 16 8, w.extractLsb' 8 8, w.extractLsb' 0 8]

/-- A narrow operand's byte: its value where the unused high bits are 0 (R60). -/
def narrow (w : Nat) (b : Byte) : Option (BitVec w) :=
  if b.toNat < 2 ^ w then some (b.setWidth w) else none

/-- A one-bit operand as a truth value (R62). -/
def flag (b : Byte) : Option Bool := (narrow 1 b).map (fun x => x == 1#1)

/-- The PLL-select operand: 0 is A, 1 is B (R62). -/
def pllOf (b : Byte) : Option Pll := (flag b).map (fun x => if x then .b else .a)

/-- The operands of a frame with opcode `op`, from the bytes after it; `none` where a narrow operand does not fit
(or, which `decode` has excluded before, where the count of bytes is not the opcode's). -/
def operands (op : Byte) (rest : List Byte) : Option Instr :=
  match op.toNat with
  | 1 => match rest with
    | [a3, a2, a1, a0] => some (.setcorr (wordOf a3 a2 a1 a0))
    | _ => none
  | 2 => match rest with
    | [a3, a2, a1, a0] => some (.plan (wordOf a3 a2 a1 a0))
    | _ => none
  | 3 => match rest with
    | [a3, a2, a1, a0] => some (.planiq (wordOf a3 a2 a1 a0))
    | _ => none
  | 4 => match rest with
    | [i3, i2, i1, i0, n3, n2, n1, n0, d3, d2, d1, d0, ms] =>
      (flag ms).map (Instr.pcalc (wordOf i3 i2 i1 i0) (wordOf n3 n2 n1 n0) (wordOf d3 d2 d1 d0))
    | _ => none
  | 5 => match rest with
    | [p3, p2, p1, p0, q3, q2, q1, q0, r3, r2, r1, r0, d4, rd] =>
      (narrow 2 d4).bind fun d4 => (narrow 3 rd).map fun rd =>
        .encode (wordOf p3 p2 p1 p0) (wordOf q3 q2 q1 q0) (wordOf r3 r2 r1 r0) d4 rd
    | _ => none
  | 6 => match rest with
    | [ch, pll, dr, inv, d3, d2, d1, d0, y3, y2, y1, y0, z3, z2, z1, z0, rd, ai, ph] =>
      (pllOf pll).bind fun pll => (narrow 2 dr).bind fun dr => (flag inv).bind fun inv =>
        (narrow 3 rd).bind fun rd => (flag ai).map fun ai =>
          .cfgch ch pll dr inv (wordOf d3 d2 d1 d0) (wordOf y3 y2 y1 y0) (wordOf z3 z2 z1 z0) rd ai ph
    | _ => none
  | 7 => match rest with
    | [pll, m3, m2, m1, m0, n3, n2, n1, n0, d3, d2, d1, d0] =>
      (pllOf pll).map fun pll => .cfgpll pll (wordOf m3 m2 m1 m0) (wordOf n3 n2 n1 n0) (wordOf d3 d2 d1 d0)
    | _ => none
  | 8 => match rest with
    | [mask] => some (.setoe mask)
    | _ => none
  | 9 => match rest with
    | [ch, f3, f2, f1, f0, dr] => (narrow 2 dr).map (Instr.setup ch (wordOf f3 f2 f1 f0))
    | _ => none
  | _ => none

/-- R174's command entry, in its order: the opcode, then the length, then the unused bits. -/
def decode (fr : Frame) : Except Malformed Instr :=
  match fr with
  | [] => .error .empty
  | op :: rest =>
    match frameBytes op with
    | none => .error (.reservedOpcode op)
    | some n =>
      if fr.length = n then
        match operands op rest with
        | some i => .ok i
        | none => .error (.unusedBits op)
      else .error (.wrongLength op)

/-- A one-bit operand's byte. -/
def flagByte (b : Bool) : Byte := if b then 1 else 0

/-- The PLL-select operand's byte (R62). -/
def pllByte (p : Pll) : Byte :=
  match p with
  | .a => 0
  | .b => 1

/-- The opcode of a command (R61). -/
def opcode (i : Instr) : Byte :=
  match i with
  | .setcorr _ => 0x01
  | .plan _ => 0x02
  | .planiq _ => 0x03
  | .pcalc _ _ _ _ => 0x04
  | .encode _ _ _ _ _ => 0x05
  | .cfgch _ _ _ _ _ _ _ _ _ _ => 0x06
  | .cfgpll _ _ _ _ => 0x07
  | .setoe _ => 0x08
  | .setup _ _ _ => 0x09

/-- The operand bytes of a command, in the order of R62. -/
def operandFrame (i : Instr) : List Byte :=
  match i with
  | .setcorr corr => bytesOf corr
  | .plan f => bytesOf f
  | .planiq f => bytesOf f
  | .pcalc i n d ms => bytesOf i ++ bytesOf n ++ bytesOf d ++ [flagByte ms]
  | .encode p1 p2 p3 d4 rdiv => bytesOf p1 ++ bytesOf p2 ++ bytesOf p3 ++ [d4.setWidth 8, rdiv.setWidth 8]
  | .cfgch ch pll drive inv div y z rdiv ai phase =>
    [ch, pllByte pll, drive.setWidth 8, flagByte inv] ++ bytesOf div ++ bytesOf y ++ bytesOf z
      ++ [rdiv.setWidth 8, flagByte ai, phase]
  | .cfgpll pll mult num denom => [pllByte pll] ++ bytesOf mult ++ bytesOf num ++ bytesOf denom
  | .setoe mask => [mask]
  | .setup ch f drive => [ch] ++ bytesOf f ++ [drive.setWidth 8]

/-- The frame of a command (R60). -/
def encode (i : Instr) : Frame := opcode i :: operandFrame i

/-- Byte `k` of a word whose bit 0 is the least significant bit of the first byte. -/
def tableByte (w k : Nat) : Byte := BitVec.ofNat 8 (w / 256 ^ k)

/-- The frame whose bits, numbered as spec/opcode_table.json numbers them, are `w`: the table's `nbits` bits, and zero bits
above them up to the opcode's frame length. -/
def tableFrame (nbits w : Nat) : Frame :=
  let v := w % 2 ^ nbits
  let n := max ((nbits + 7) / 8) ((frameBytes (tableByte v 0)).getD 1)
  (List.range n).map (tableByte v)

/-- The command the decoder reads from a table word. -/
def decodeTableWord (nbits w : Nat) : Option Instr :=
  match decode (tableFrame nbits w) with
  | .ok i => some i
  | .error _ => none

end Sys2Proof
end

