-- ==== Sys2Proof/Machine/State.lean ====
section
/-! DEFINITION. The machine's state as plain data, and the state right after reset (spec/10_state.md). -/

namespace Sys2Proof.Machine

/-- The codes of the sticky fault register (R172). -/
inductive FaultCode where
  /-- 1: the corrected frequency is 0 or negative (R93). -/
  | planDomain
  /-- 2: a divider `pvals` refuses, or a P value wider than its field (R123, R127). -/
  | paramRange
  /-- 3: a planning command before SETCORR (R22). -/
  | notInitialized
  /-- 4: a second SETCORR (R140). -/
  | alreadyInitialized
  /-- 5: a reserved opcode or a malformed frame (R174). -/
  | illegalCommand
deriving DecidableEq, Repr, Inhabited

/-- The statuses a command can end with (R171). -/
inductive Status where
  | ok
  | invalidChannel
  | invalidDivider
  | transportFailure
deriving DecidableEq, Repr, Inhabited

/-- `PLLConfig = (mult, num, denom)` (R28). -/
structure PllConfig where
  mult : Nat
  num : Nat
  denom : Nat
deriving DecidableEq, Repr, Inhabited

/-- `OutputConfig = (div, y, z, rdiv, allowIntegerMode)` (R28). -/
structure OutputConfig where
  div : Nat
  y : Nat
  z : Nat
  rdiv : BitVec 3
  ai : Bool
deriving DecidableEq, Repr, Inhabited

/-- `(P1, P2, P3)`, each in a field of its register width (R67): 18, 20 and 20 bits. -/
structure PValues where
  p1 : BitVec 18
  p2 : BitVec 20
  p3 : BitVec 20
deriving DecidableEq, Repr, Inhabited

/-- An 8-byte register image `B[0..7]` (R9, R66). -/
structure Image where
  b0 : Byte
  b1 : Byte
  b2 : Byte
  b3 : Byte
  b4 : Byte
  b5 : Byte
  b6 : Byte
  b7 : Byte
deriving DecidableEq, Repr, Inhabited

/-- What a command puts on the result port beside its status (R27). -/
inductive Output where
  /-- SETCORR, CFGCH, CFGPLL, SETOE, SETUP, and any command that ends with an error status. -/
  | nothing
  /-- PLAN and PLANIQ. -/
  | configs (pc : PllConfig) (mc : OutputConfig)
  /-- PCALC. -/
  | params (p : PValues)
  /-- ENCODE. -/
  | image (b : Image)
deriving DecidableEq, Repr, Inhabited

/-- The contents of the result port (R27). -/
structure ResultPort where
  status : Status
  output : Output
deriving DecidableEq, Repr, Inhabited

/-- `DEV`: the Known addresses with their bytes, in rising order; an address that is not listed is Unknown (R30). -/
abbrev Memory := List Host.Cell

/-- The state: the block's registers, the two observation items, the result port, the configuration argument and the inputs of
the host and the transport. -/
structure State where
  /-- `CORR` (R21). -/
  corr : Word
  /-- `CORR_VALID` (R22). -/
  corrValid : Bool
  /-- `FAULT`: none or a code (R23). -/
  fault : Option FaultCode
  /-- `LOG`, oldest write first (R29). -/
  log : List LogEntry
  /-- `DEV` (R30). -/
  dev : Memory
  /-- The result port, empty or holding the last command's outcome (R27). -/
  result : Option ResultPort
  /-- The configuration argument of R7; no step writes it. -/
  platform : Platform
  /-- The host's frames not yet taken, the next one first (R2, R174). The model's own field. -/
  frames : List Frame
  /-- The transport's answers by the write's index in `LOG`; past the end the answer is the opaque oracle's (R43).
  The model's own field; no step writes it. -/
  answers : List WriteOutcome
deriving DecidableEq, Repr

/-- Why `step` stops. -/
inductive Fault where
  /-- Raised by `step` alone, when `FAULT` holds a code: R174 and R177 give the block no step until reset. Safe: the
  spec says that no step exists. -/
  | stuck (code : FaultCode)
deriving DecidableEq, Repr

/-- Why an instruction has no meaning. -/
inductive Refusal where
  /-- A command without a meaning yet, rejected by name in `exec`'s arm. Safe: the machine stops. No arm raises it. -/
  | notModelled (mnemonic : String)
deriving DecidableEq, Repr

/-- The state right after reset (R33, R190): no fault, nothing logged, every device register Unknown, the port empty; `CORR` is
unspecified (log entry 1), the platform is the configuration's (log entry 2), no frame is presented (log entry 4) and the
transport's answers are all the oracle's (log entry 3). -/
def State.reset : State where
  corr := Config.corrAtReset
  corrValid := false
  fault := none
  log := []
  dev := []
  result := none
  platform := Config.platform
  frames := []
  answers := []

end Sys2Proof.Machine
end

