-- ==== Sys2Proof/Machine/Ops.lean ====
section
/-! DEFINITION. The named operations over state: the device shadow, the one bus primitive, performing a write list, ending a
command with a status, raising a sticky fault, and reset of a running block. -/

namespace Sys2Proof.Machine

/-! ## The device shadow (R30) -/

/-- What `DEV` says of an address: `some v` is Known(v), `none` is Unknown. -/
def Memory.read : Memory → Nat → Option Byte
  | [], _ => none
  | (b, v) :: m, a => if b = a then some v else Memory.read m a

/-- `DEV[a] <- Known(v)`. -/
def Memory.setKnown : Memory → Nat → Byte → Memory
  | [], a, v => [(a, v)]
  | (b, w) :: m, a, v =>
    if a < b then (a, v) :: (b, w) :: m
    else if a = b then (a, v) :: m
    else (b, w) :: Memory.setKnown m a v

/-- `DEV[a] <- Unknown`: what an unlisted address reads as, so the entry goes. -/
def Memory.setUnknown (m : Memory) (a : Nat) : Memory := m.filter (fun c => decide (c.1 ≠ a))

/-- The canonical form: addresses strictly rising, each an 8-bit address. (No entry can equal what an unlisted address reads
as, since an entry is Known.) -/
abbrev Memory.wf (m : Memory) : Prop := m.Pairwise (fun c d => c.1 < d.1) ∧ ∀ c ∈ m, c.1 < 256

/-- What one answered write does to the shadow: Known on ok, Unknown on err (R30, R43). -/
def Memory.applyWrite (m : Memory) (e : LogEntry) : Memory :=
  match e.outcome with
  | .ok => Memory.setKnown m e.addr.toNat e.val
  | .err => Memory.setUnknown m e.addr.toNat

/-! ## Ending a command (R170) -/

/-- `return status(code, outputs)`: the outcome replaces what the result port held (R27). -/
def State.finish (st : Status) (out : Output) (s : State) : State := { s with result := some ⟨st, out⟩ }

/-- `raise Fault(code)`: the shared entry into a sticky fault. `FAULT <- code`, and nothing is on the result port (R23, R27,
R172); no state is saved, no mode changes, there is no handler (R176). -/
def State.raise (c : FaultCode) (s : State) : State := { s with fault := some c, result := none }

/-- An end that a command reaches before its first device write (R176, precise). -/
inductive Early where
  /-- The status InvalidChannel (R142, R153). -/
  | invalidChannel
  /-- The status InvalidDivider (R121). -/
  | invalidDivider
  /-- A sticky fault. -/
  | fault (c : FaultCode)
deriving DecidableEq, Repr

/-- End a command early. -/
def State.endEarly (e : Early) (s : State) : State :=
  match e with
  | .invalidChannel => s.finish .invalidChannel .nothing
  | .invalidDivider => s.finish .invalidDivider .nothing
  | .fault c => s.raise c

/-- End a command that writes no device register, with its output or early. -/
def State.conclude (r : Except Early Output) (s : State) : State :=
  match r with
  | .ok out => s.finish .ok out
  | .error e => s.endEarly e

/-! ## Device writes (R43, R150) -/

/-- A write list's element: an address and a value (R24). -/
abbrev Write := Byte × Byte

/-- The transport's answer to the next write, a free draw (R43): the environment's answer for this index of `LOG`, else the
opaque oracle's. -/
def State.transportAnswer (s : State) (addr val : Byte) : WriteOutcome :=
  (s.answers[s.log.length]?).getD (Config.transportOracle s.log addr val)

/-- The log entry `BusWrite(addr, val)` appends. -/
def State.busEntry (s : State) (addr val : Byte) : LogEntry := ⟨addr, val, s.transportAnswer addr val⟩

/-- `BusWrite(addr, val)`'s effect on `LOG` and `DEV` (R43). -/
def State.busWrite (addr val : Byte) (s : State) : State :=
  { s with log := s.log ++ [s.busEntry addr val], dev := s.dev.applyWrite (s.busEntry addr val) }

/-- `perform(W)`: the writes in order, stopping at the first that fails (R150). -/
def State.perform : List Write → State → State
  | [], s => s.finish .ok .nothing
  | (a, v) :: w, s =>
    match s.transportAnswer a v with
    | .ok => State.perform w (s.busWrite a v)
    | .err => (s.busWrite a v).finish .transportFailure .nothing

/-- End a command that writes the device: perform its write list, or end early with zero writes (R143, R176). -/
def State.deliver (r : Except Early (List Write)) (s : State) : State :=
  match r with
  | .ok w => s.perform w
  | .error e => s.endEarly e

/-! ## Registers -/

/-- `CORR <- corr` and `CORR_VALID <- 1` (R140). -/
def State.latchCorr (corr : Word) (s : State) : State := { s with corr := corr, corrValid := true }

/-- `CORR` as the integer the planners use, `sext_32` (R14, R21). -/
def State.corrInt (s : State) : Int := s.corr.toInt

/-! ## Reset of a running block (R190) -/

/-- `Reset()` of a running block: every item of state takes its reset value. The platform is not state and stays; the host
begins a new command sequence and the transport a new sequence of answers. -/
def State.restart (frames : List Frame) (answers : List WriteOutcome) (s : State) : State :=
  { State.reset with platform := s.platform, frames := frames, answers := answers }

end Sys2Proof.Machine
end

