-- ==== Sys2Proof/Machine/Operands.lean ====
section
/-! DEFINITION. Operand forms: what an operand port's bits mean, and the platform addresses an operand selects
(spec/00_scope.md rules R7, R8, spec/42_programmer.md rules R142, R153, R156). -/

namespace Sys2Proof.Machine

/-- The parameter registers of a channel (R7, R49). -/
def channelRegs (p : Platform) (c : Channel) : ChannelRegs :=
  match c with
  | .ch0 => p.params.ch0
  | .ch1 => p.params.ch1
  | .ch2 => p.params.ch2

/-- `ADDR_CTRL(ch)`. -/
def addrCtrl (p : Platform) (c : Channel) : Byte := (channelRegs p c).ctrl

/-- `ADDR_MS(ch)`. -/
def addrMs (p : Platform) (c : Channel) : Byte := (channelRegs p c).ms

/-- `ADDR_PHASE(ch)`. -/
def addrPhase (p : Platform) (c : Channel) : Byte := (channelRegs p c).phase

/-- The parameter registers of a PLL (R7). -/
def pllRegs (p : Platform) (q : Pll) : PllRegs :=
  match q with
  | .a => p.params.pllA
  | .b => p.params.pllB

/-- `ADDR_PLL(p)`. -/
def addrPll (p : Platform) (q : Pll) : Byte := (pllRegs p q).base

/-- `ADDR_PLL_INT(p)`. -/
def addrPllInt (p : Platform) (q : Pll) : Byte := (pllRegs p q).intAddr

/-- `VAL_PLL_INT(p)`. -/
def valPllInt (p : Platform) (q : Pll) : Byte := (pllRegs p q).intVal

/-- The channel check of CFGCH: 0, 1 and 2 (R142). -/
def cfgChannel (ch : Byte) : Option Channel :=
  match ch.toNat with
  | 0 => some .ch0
  | 1 => some .ch1
  | 2 => some .ch2
  | _ => none

/-- SETUP's channel mapping: channel 0 with PLL A, channel 2 with PLL B, no other (R153). -/
def setupChannel (ch : Byte) : Option (Channel × Pll) :=
  match ch.toNat with
  | 0 => some (.ch0, .a)
  | 2 => some (.ch2, .b)
  | _ => none

/-- `clamp(v, lo, hi)` (R13). -/
def clamp (v lo hi : Nat) : Nat := if v < lo then lo else if hi < v then hi else v

/-- `tdiv(n, d)`, the quotient rounded toward zero (R11). -/
def tdiv (n d : Int) : Int := Int.tdiv n d

/-- A one-bit value in a byte at position `pos`. -/
def bitAt (b : Bool) (pos : Nat) : Byte := (if b then 1#8 else 0#8) <<< pos

/-- The PLL-select bit: 0 for A, 1 for B (R8). -/
def pllBit (q : Pll) : Bool :=
  match q with
  | .a => false
  | .b => true

end Sys2Proof.Machine
end

