-- ==== Sys2Proof/Machine/Flags.lean ====
section
/-! DEFINITION. The block keeps no flag between commands (spec/10_state.md rule R26). What it computes of that kind is here: the
status and fault numbers, divider legality, the integer-mode bits, and the single-byte device registers built of such bits. -/

namespace Sys2Proof.Machine

/-- The 8-bit status number (R171). -/
def Status.code (st : Status) : Byte :=
  match st with
  | .ok => 0
  | .invalidChannel => 1
  | .invalidDivider => 2
  | .transportFailure => 3

/-- The fault number; `none` is encoded 0 (R172). -/
def faultNumber (f : Option FaultCode) : Nat :=
  match f with
  | none => 0
  | some .planDomain => 1
  | some .paramRange => 2
  | some .notInitialized => 3
  | some .alreadyInitialized => 4
  | some .illegalCommand => 5

/-- `legalDiv(div, y, ai)` (R121). -/
def legalDiv (div y : Nat) (ai : Bool) : Bool :=
  if 8 ≤ div then true
  else if div = 4 then ai
  else if div = 6 then ai && decide (y = 0)
  else false

/-- `intPLL(mult, num, denom)` (R130). -/
def intPll (pc : PllConfig) : Bool := decide (pc.num = 0) && decide (pc.mult % 2 = 0)

/-- `intMS(div, y, ai)` (R131). -/
def intMs (div y : Nat) (ai : Bool) : Bool :=
  let yEff := if div = 4 then 0 else y
  ai && decide (yEff = 0) && decide (div % 2 = 0)

/-- The clock-control byte of its four fields in `CTRL_LAYOUT` (R70). -/
def ctrlOf (l : CtrlLayout) (intb src inv : Bool) (drive : BitVec 2) : Byte :=
  l.const ||| bitAt intb l.posInt ||| bitAt src l.posSrc ||| bitAt inv l.posInv ||| (drive.setWidth 8 <<< l.posDrv)

/-- `ctrlByte(pll, drive, inv, div, y, ai)` (R144). -/
def ctrlByte (p : Platform) (pll : Pll) (drive : BitVec 2) (inv : Bool) (div y : Nat) (ai : Bool) : Byte :=
  ctrlOf p.params.layout (intMs div y ai) (pllBit pll) inv drive

/-- The output-enable byte, `0xFF − mask` (R71). -/
def oeByte (mask : Byte) : Byte := 0xFF - mask

/-- The phase-offset byte, `phase & 0x7F` (R72). -/
def phaseByte (phase : Byte) : Byte := phase &&& 0x7F

end Sys2Proof.Machine
end

