-- ==== Sys2Proof/Machine/Encoder.lean ====
section
/-! DEFINITION. The parameter computation and the register encoder, PCALC and ENCODE (spec/41_encoder.md,
spec/30_encoding.md rules R66 to R69). -/

namespace Sys2Proof.Machine

/-- `IMG8(P1, P2, P3, divBy4, rdiv)`, bit for bit (R66). -/
def img8 (p : PValues) (d4 : BitVec 2) (rdiv : BitVec 3) : Image where
  b0 := p.p3.extractLsb' 8 8
  b1 := p.p3.extractLsb' 0 8
  b2 := (0#1 ++ rdiv ++ d4 ++ p.p1.extractLsb' 16 2 : BitVec 8)
  b3 := p.p1.extractLsb' 8 8
  b4 := p.p1.extractLsb' 0 8
  b5 := (p.p3.extractLsb' 16 4 ++ p.p2.extractLsb' 16 4 : BitVec 8)
  b6 := p.p2.extractLsb' 8 8
  b7 := p.p2.extractLsb' 0 8

/-- The inverse of `IMG8`, `decode(B[0..7])`; bit 7 of byte 2 is ignored (R129). It is no command. -/
def unimg8 (b : Image) : PValues × BitVec 2 × BitVec 3 :=
  (⟨(b.b2.extractLsb' 0 2 ++ b.b3 ++ b.b4 : BitVec 18), (b.b5.extractLsb' 0 4 ++ b.b6 ++ b.b7 : BitVec 20),
    (b.b5.extractLsb' 4 4 ++ b.b0 ++ b.b1 : BitVec 20)⟩, b.b2.extractLsb' 2 2, b.b2.extractLsb' 4 3)

/-- The bytes of an image in address order (R9). -/
def Image.toList (b : Image) : List Byte := [b.b0, b.b1, b.b2, b.b3, b.b4, b.b5, b.b6, b.b7]

/-- `pvals(i, n, d, ms)` (R123), with the divide-by-4 mode of R124 first. P1 is exact in the integers and is put in its field only
after the range check. -/
def pvals (i n d : Nat) (ms : Bool) : Except FaultCode PValues :=
  if ms = true ∧ i = 4 then .ok ⟨0, 0, 1⟩
  else if d = 0 ∨ 2 ^ 20 - 1 < d ∨ d < n then .error .paramRange
  else
    let q := 128 * n / d
    let p1 : Int := 128 * (i : Int) + (q : Int) - 512
    let p2 := 128 * n - d * q
    if p1 < 0 ∨ 2 ^ 18 ≤ p1 then .error .paramRange
    else .ok ⟨BitVec.ofInt 18 p1, BitVec.ofNat 20 p2, BitVec.ofNat 20 d⟩

/-- The `divBy4` code: 0b11 in the divide-by-4 mode, else 0b00 (R69, R125). -/
def divBy4Code (div : Nat) : BitVec 2 := if div = 4 then 0b11 else 0b00

/-- `pMS(cfg)`: the image fields of a multisynth divider (R125). -/
def pMs (mc : OutputConfig) : Except FaultCode (PValues × BitVec 2 × BitVec 3) :=
  match pvals mc.div mc.y mc.z true with
  | .ok p => .ok (p, divBy4Code mc.div, mc.rdiv)
  | .error c => .error c

/-- `pPLL(cfg)`: the image fields of a PLL feedback divider (R126). -/
def pPll (pc : PllConfig) : Except FaultCode (PValues × BitVec 2 × BitVec 3) :=
  match pvals pc.mult pc.num pc.denom false with
  | .ok p => .ok (p, 0b00, 0)
  | .error c => .error c

/-- PCALC's result (R122). -/
def pcalcResult (i n d : Nat) (ms : Bool) : Except Early Output :=
  match pvals i n d ms with
  | .ok p => .ok (.params p)
  | .error c => .error (.fault c)

/-- ENCODE's result: the range checks, then the image (R127). -/
def encodeResult (p1 p2 p3 : Word) (d4 : BitVec 2) (rdiv : BitVec 3) : Except Early Output :=
  if 2 ^ 18 ≤ p1.toNat ∨ 2 ^ 20 ≤ p2.toNat ∨ 2 ^ 20 ≤ p3.toNat then .error (.fault .paramRange)
  else .ok (.image (img8 ⟨p1.setWidth 18, p2.setWidth 20, p3.setWidth 20⟩ d4 rdiv))

/-- PCALC (R122). -/
def execPcalc (i n d : Word) (ms : Bool) (s : State) : Host.Outcome State Fault Refusal :=
  .next (s.conclude (pcalcResult i.toNat n.toNat d.toNat ms))

/-- ENCODE (R127). -/
def execEncode (p1 p2 p3 : Word) (d4 : BitVec 2) (rdiv : BitVec 3) (s : State) : Host.Outcome State Fault Refusal :=
  .next (s.conclude (encodeResult p1 p2 p3 d4 rdiv))

end Sys2Proof.Machine
end

