-- ==== Sys2Proof/Machine/Planner.lean ====
section
/-! DEFINITION. The frequency planners, PLAN and PLANIQ (spec/40_planner.md). Every value is an exact integer (R10). -/

namespace Sys2Proof.Machine

/-- `correct(F, corr) = F − tdiv((F / 1_000_000) * corr, 100)` (R92). -/
def correct (f : Nat) (corr : Int) : Int := (f : Int) - tdiv (((f / 1000000 : Nat) : Int) * corr) 100

/-- `reduce(rem, d)` with `t = (d >> 20) + 1` (R94). -/
def reduce (rem d : Nat) : Nat × Nat :=
  let t := d / 2 ^ 20 + 1
  (rem / t, d / t)

/-- The low-frequency prescale: below 1 MHz times 64 with rdiv code 6 (R96). -/
def prescale (f : Nat) : Nat × BitVec 3 := if f < 1000000 then (f * 64, 6) else (f, 0)

/-- Case A: the PLL at 900 MHz, a fractional output divider (R97, R99). -/
def caseA (f : Nat) (r : BitVec 3) : PllConfig × OutputConfig :=
  let yz := reduce (900000000 % f) f
  (⟨36, 0, 1⟩, ⟨900000000 / f, yz.1, yz.2, r, true⟩)

/-- Case B's output divider ladder (R98). -/
def ladderB (f : Nat) : Nat := if 150000000 ≤ f then 4 else if 100000000 ≤ f then 6 else 8

/-- Case B: an integer output divider, a fractional PLL multiplier (R98, R99). -/
def caseB (f : Nat) (r : BitVec 3) : PllConfig × OutputConfig :=
  let x := ladderB f
  let n := x * f
  let bc := reduce (n % 25000000) 25000000
  (⟨n / 25000000, bc.1, bc.2⟩, ⟨x, 0, 1, r, true⟩)

/-- The body of PLAN after its initialisation check (R95, R91 to R99). -/
def planBody (corr : Int) (f : Nat) : Except FaultCode (PllConfig × OutputConfig) :=
  let pr := prescale (clamp f 8000 160000000)
  let g := correct pr.1 corr
  if g ≤ 0 then .error .planDomain
  else if g < 81000000 then .ok (caseA g.toNat pr.2)
  else .ok (caseB g.toNat pr.2)

/-- `IQdiv(F)`, the quadrature divider ladder (R102). -/
def iqDiv (f : Nat) : Nat :=
  if f < 4900000 then 127 else if f < 8000000 then 625000000 / f else 900000000 / f

/-- `IQpll(F, d)`, the quadrature PLL multiplier (R103). -/
def iqPll (f d : Nat) : PllConfig :=
  let p := f * d
  ⟨p / 25000000, p % 25000000 / 24, 25000000 / 24⟩

/-- The body of PLANIQ after its initialisation check (R101). -/
def planIqBody (corr : Int) (f : Nat) : Except FaultCode (PllConfig × OutputConfig) :=
  let g := correct (clamp f 1400000 100000000) corr
  if g ≤ 0 then .error .planDomain
  else
    let d := iqDiv g.toNat
    .ok (iqPll g.toNat d, ⟨d, 0, 1, 0, false⟩)

/-- The shared form of the planning commands: the initialisation check first (R22, R175), then the planner's body. -/
def planResult (corrValid : Bool) (body : Except FaultCode (PllConfig × OutputConfig)) : Except Early Output :=
  if corrValid then
    match body with
    | .ok (pc, mc) => .ok (.configs pc mc)
    | .error c => .error (.fault c)
  else .error (.fault .notInitialized)

/-- PLAN (R95). -/
def execPlan (f : Word) (s : State) : Host.Outcome State Fault Refusal :=
  .next (s.conclude (planResult s.corrValid (planBody s.corrInt f.toNat)))

/-- PLANIQ (R101). -/
def execPlaniq (f : Word) (s : State) : Host.Outcome State Fault Refusal :=
  .next (s.conclude (planResult s.corrValid (planIqBody s.corrInt f.toNat)))

end Sys2Proof.Machine
end

