-- ==== Sys2Proof/Machine/Programmer.lean ====
section
/-! DEFINITION. The device programmer, SETCORR, CFGCH, CFGPLL, SETOE and SETUP (spec/42_programmer.md). Each command computes its
whole write list, or the reason it ends early, before its first write (R143, R176). -/

namespace Sys2Proof.Machine

/-- The eight writes of an image at a base address, in ascending byte order (R46, R145). -/
def imageWrites (base : Byte) (b : Image) : List Write :=
  [(base + 0, b.b0), (base + 1, b.b1), (base + 2, b.b2), (base + 3, b.b3), (base + 4, b.b4), (base + 5, b.b5),
    (base + 6, b.b6), (base + 7, b.b7)]

/-- `chWrites(ch, pll, drive, inv, (div, y, ai), PM, phase)`: ten writes (R145). -/
def chWrites (p : Platform) (c : Channel) (pll : Pll) (drive : BitVec 2) (inv : Bool) (mc : OutputConfig)
    (pm : PValues × BitVec 2 × BitVec 3) (phase : Byte) : List Write :=
  [(addrCtrl p c, ctrlByte p pll drive inv mc.div mc.y mc.ai)]
    ++ imageWrites (addrMs p c) (img8 pm.1 pm.2.1 pm.2.2)
    ++ [(addrPhase p c, phaseByte phase)]

/-- The optional integer-mode write of a PLL (R148). -/
def pllIntWrite (p : Platform) (q : Pll) (pc : PllConfig) : List Write :=
  if p.params.pllIntOpt && intPll pc then [(addrPllInt p q, valPllInt p q)] else []

/-- `pllWrites(pll, cfg, PP)`: the image, the optional integer-mode write, the reset of both PLLs (R147, R149). -/
def pllWrites (p : Platform) (q : Pll) (pc : PllConfig) (pp : PValues × BitVec 2 × BitVec 3) : List Write :=
  imageWrites (addrPll p q) (img8 pp.1 pp.2.1 pp.2.2)
    ++ pllIntWrite p q pc
    ++ [(p.params.pllReset, p.params.pllResetVal)]

/-- CFGCH's checks and write list (R141). -/
def cfgchWrites (p : Platform) (ch : Byte) (pll : Pll) (drive : BitVec 2) (inv : Bool) (mc : OutputConfig)
    (phase : Byte) : Except Early (List Write) :=
  match cfgChannel ch with
  | none => .error .invalidChannel
  | some c =>
    if legalDiv mc.div mc.y mc.ai then
      match pMs mc with
      | .ok pm => .ok (chWrites p c pll drive inv mc pm phase)
      | .error f => .error (.fault f)
    else .error .invalidDivider

/-- CFGPLL's checks and write list (R146). -/
def cfgpllWrites (p : Platform) (q : Pll) (pc : PllConfig) : Except Early (List Write) :=
  match pPll pc with
  | .ok pp => .ok (pllWrites p q pc pp)
  | .error f => .error (.fault f)

/-- SETUP's write list once its channel and both configurations are known: the PLL first, then the channel (R152). -/
def setupConfigWrites (p : Platform) (c : Channel) (q : Pll) (drive : BitVec 2) (pc : PllConfig) (mc : OutputConfig) :
    Except Early (List Write) :=
  if legalDiv mc.div mc.y mc.ai then
    match pPll pc with
    | .error f => .error (.fault f)
    | .ok pp =>
      match pMs mc with
      | .error f => .error (.fault f)
      | .ok pm => .ok (pllWrites p q pc pp ++ chWrites p c q drive false mc pm 0)
  else .error .invalidDivider

/-- SETUP's checks and write list, in the priority of R175 (R152). -/
def setupWrites (p : Platform) (corrValid : Bool) (corr : Int) (ch : Byte) (f : Nat) (drive : BitVec 2) :
    Except Early (List Write) :=
  if corrValid then
    match setupChannel ch with
    | none => .error .invalidChannel
    | some (c, q) =>
      match planBody corr f with
      | .error e => .error (.fault e)
      | .ok (pc, mc) => setupConfigWrites p c q drive pc mc
  else .error (.fault .notInitialized)

/-- SETCORR (R140). -/
def execSetcorr (corr : Word) (s : State) : Host.Outcome State Fault Refusal :=
  if s.corrValid then .next (s.raise .alreadyInitialized)
  else .next ((s.latchCorr corr).finish .ok .nothing)

/-- CFGCH (R141). -/
def execCfgch (ch : Byte) (pll : Pll) (drive : BitVec 2) (inv : Bool) (div y z : Word) (rdiv : BitVec 3) (ai : Bool)
    (phase : Byte) (s : State) : Host.Outcome State Fault Refusal :=
  .next (s.deliver (cfgchWrites s.platform ch pll drive inv ⟨div.toNat, y.toNat, z.toNat, rdiv, ai⟩ phase))

/-- CFGPLL (R146). -/
def execCfgpll (pll : Pll) (mult num denom : Word) (s : State) : Host.Outcome State Fault Refusal :=
  .next (s.deliver (cfgpllWrites s.platform pll ⟨mult.toNat, num.toNat, denom.toNat⟩))

/-- SETOE (R151). -/
def execSetoe (mask : Byte) (s : State) : Host.Outcome State Fault Refusal :=
  .next (s.perform [(s.platform.params.oe, oeByte mask)])

/-- SETUP (R152). -/
def execSetup (ch : Byte) (f : Word) (drive : BitVec 2) (s : State) : Host.Outcome State Fault Refusal :=
  .next (s.deliver (setupWrites s.platform s.corrValid s.corrInt ch f.toNat drive))

end Sys2Proof.Machine
end

