-- ==== Sys2Proof/Machine/Dispatch.lean ====
section
/-! DEFINITION. One arm per command, each a direct call of its meaning. -/

namespace Sys2Proof.Machine

def exec (i : Instr) (s : State) : Host.Outcome State Fault Refusal :=
  match i with
  | .setcorr corr => Sys2Proof.Machine.execSetcorr corr s
  | .plan f => Sys2Proof.Machine.execPlan f s
  | .planiq f => Sys2Proof.Machine.execPlaniq f s
  | .pcalc i0 n d ms => Sys2Proof.Machine.execPcalc i0 n d ms s
  | .encode p1 p2 p3 d4 rdiv => Sys2Proof.Machine.execEncode p1 p2 p3 d4 rdiv s
  | .cfgch ch pll drive inv div y z rdiv ai phase => Sys2Proof.Machine.execCfgch ch pll drive inv div y z rdiv ai phase s
  | .cfgpll pll mult num denom => Sys2Proof.Machine.execCfgpll pll mult num denom s
  | .setoe mask => Sys2Proof.Machine.execSetoe mask s
  | .setup ch f drive => Sys2Proof.Machine.execSetup ch f drive s

end Sys2Proof.Machine
end

