-- ==== Sys2Proof/Machine/Fetch.lean ====
section
/-! DEFINITION. Command entry: taking the host's next frame and decoding it (spec/60_exceptions.md rule R174). -/

namespace Sys2Proof.Machine

/-- What command entry finds. -/
inductive Entry where
  /-- The host presents no frame. -/
  | idle
  /-- The next frame is this command; the state is the one it runs on, the frame taken. -/
  | command (i : Instr) (s : State)
  /-- The next frame is reserved or malformed; the state is the one after IllegalCommand was raised. -/
  | illegal (s : State)
deriving DecidableEq, Repr

/-- The state once the first frame is taken from the host. -/
def State.takeFrame (rest : List Frame) (s : State) : State := { s with frames := rest }

/-- R174's `Step(frame)` up to the execution of the command. -/
def State.entry (s : State) : Entry :=
  match s.frames with
  | [] => .idle
  | fr :: rest =>
    match decode fr with
    | .ok i => .command i (s.takeFrame rest)
    | .error _ => .illegal ((s.takeFrame rest).raise .illegalCommand)

/-- The host presents one more frame, before those it had waiting. -/
def State.present (fr : Frame) (s : State) : State := { s with frames := fr :: s.frames }

end Sys2Proof.Machine
end

