-- ==== Sys2Proof/Machine/Step.lean ====
section
/-! DEFINITION. One step of the block: one command from entry to its end (spec/60_exceptions.md rule R174). -/

namespace Sys2Proof.Machine

/-- R174: while `FAULT` holds a code no step exists; with no frame presented the block waits (R191, log entry 4); a frame is
decoded and executed, or raises IllegalCommand. -/
def step (s : State) : Host.Outcome State Fault Refusal :=
  match s.fault with
  | some c => .fault (.stuck c)
  | none =>
    match s.entry with
    | .idle => .next s
    | .command i t => exec i t
    | .illegal t => .next t

/-- `s` with the table word's frame as the host's next one. -/
def State.withFetchWord (s : State) (nbits w : Nat) : State := s.present (tableFrame nbits w)

end Sys2Proof.Machine
end

