-- ==== Sys2Proof/Safety.lean ====
section
/-! DEFINITION. The terms claims are stated in: what a step may leave changed, the invariants of the observation state, the final
states of a run, the reconstructed frequency and the quadrature pair. -/

namespace Sys2Proof.Machine

/-! ## What changes (R172, R176) -/

/-- The inputs of the other agents and the configuration are as they were. -/
def SameInputs (s t : State) : Prop := t.platform = s.platform ∧ t.frames = s.frames ∧ t.answers = s.answers

/-- `CORR` and `CORR_VALID` are as they were. -/
def SameCorr (s t : State) : Prop := t.corr = s.corr ∧ t.corrValid = s.corrValid

/-- The log is as it was, and every device register reads as it did. -/
def SameDevice (s t : State) : Prop := t.log = s.log ∧ ∀ a, t.dev.read a = s.dev.read a

/-- The effect of a faulting command: `FAULT <- c`, and everything else that persists as it was (R172). Of the result port it says
nothing. -/
def OnlyFault (c : FaultCode) (s t : State) : Prop :=
  t.fault = some c ∧ SameCorr s t ∧ SameDevice s t ∧ SameInputs s t

/-- A command's own write list, or the reason it ends before its first write (R141, R146, R151, R152); the commands that write no
device register have the empty list (R95, R101, R122, R127, R140). -/
def commandWrites (i : Instr) (s : State) : Except Early (List Write) :=
  match i with
  | .setcorr _ => .ok []
  | .plan _ => .ok []
  | .planiq _ => .ok []
  | .pcalc _ _ _ _ => .ok []
  | .encode _ _ _ _ _ => .ok []
  | .cfgch ch pll drive inv div y z rdiv ai phase =>
    cfgchWrites s.platform ch pll drive inv ⟨div.toNat, y.toNat, z.toNat, rdiv, ai⟩ phase
  | .cfgpll pll mult num denom => cfgpllWrites s.platform pll ⟨mult.toNat, num.toNat, denom.toNat⟩
  | .setoe mask => .ok [(s.platform.params.oe, oeByte mask)]
  | .setup ch f drive => setupWrites s.platform s.corrValid s.corrInt ch f.toNat drive

/-- The frame of a command that delivers a write list, or ends early, as `r` says: the correction and the inputs are untouched;
`FAULT` is untouched unless `r` raises a fault; the log is untouched when there is no write list; and every address that is none of
the list's reads as it did. -/
def DeliverFrame (r : Except Early (List Write)) (s t : State) : Prop :=
  SameCorr s t ∧ SameInputs s t ∧ ((∀ c, r ≠ .error (.fault c)) → t.fault = s.fault) ∧
    ((∀ w, r ≠ .ok w) → t.log = s.log) ∧
    ∀ a, (∀ w, r = .ok w → ∀ x ∈ w, x.1.toNat ≠ a) → t.dev.read a = s.dev.read a

/-- The commands each fault is raised by (R172, the table's last column); IllegalCommand is raised by command entry, before any
command runs. -/
def raises (i : Instr) (c : FaultCode) : Bool :=
  match i with
  | .setcorr _ => c == .alreadyInitialized
  | .plan _ => c == .planDomain || c == .notInitialized
  | .planiq _ => c == .planDomain || c == .notInitialized
  | .pcalc _ _ _ _ => c == .paramRange
  | .encode _ _ _ _ _ => c == .paramRange
  | .cfgch _ _ _ _ _ _ _ _ _ _ => c == .paramRange
  | .cfgpll _ _ _ _ => c == .paramRange
  | .setoe _ => false
  | .setup _ _ _ => c == .planDomain || c == .paramRange || c == .notInitialized

/-- The commands each status is returned by (R171, the table's fourth column). -/
def returns (i : Instr) (st : Status) : Bool :=
  match i with
  | .setcorr _ => st == .ok
  | .plan _ => st == .ok
  | .planiq _ => st == .ok
  | .pcalc _ _ _ _ => st == .ok
  | .encode _ _ _ _ _ => st == .ok
  | .cfgch _ _ _ _ _ _ _ _ _ _ => true
  | .cfgpll _ _ _ _ => st == .ok || st == .transportFailure
  | .setoe _ => st == .ok || st == .transportFailure
  | .setup _ _ _ => true

/-! ## Invariants of the observation state (R29, R30, R42) -/

/-- The shadow that a log leaves, starting from all Unknown (R30, R43). -/
def replay (log : List LogEntry) : Memory := log.foldl Memory.applyWrite []

/-- `DEV` is what `LOG` leaves. -/
def ShadowIsReplay (s : State) : Prop := s.dev = replay s.log

/-- An address inside the 8-byte image at `base` (R46). -/
def inImage (base a : Byte) : Bool := decide (base.toNat ≤ a.toNat) && decide (a.toNat ≤ base.toNat + 7)

/-- The addresses the block may write: a parameter address, or a parameter base plus 0 to 7 (R42, R156). `ADDR_PLL_INT` is one
only where `PLL_INT_OPT` holds (R148: otherwise no write is made). -/
def isParameterAddress (p : Platform) (a : Byte) : Bool :=
  [Channel.ch0, .ch1, .ch2].any (fun c => a == addrCtrl p c || inImage (addrMs p c) a || a == addrPhase p c)
    || [Pll.a, .b].any (fun q => inImage (addrPll p q) a || (p.params.pllIntOpt && a == addrPllInt p q))
    || a == p.params.pllReset || a == p.params.oe

/-- Every logged write went to an address of R42. -/
def LogWithinPlatform (s : State) : Prop := ∀ e ∈ s.log, isParameterAddress s.platform e.addr = true

/-! ## Runs (R194, R202) -/

/-- A final state: the last command ended with a status, no fault, and the host has no more commands (R202). -/
def Final (s : State) : Prop := s.fault = none ∧ s.frames = [] ∧ s.result.isSome = true

/-- The transport answers ok to the next `n` writes. -/
def AnswersOk (s : State) (n : Nat) : Prop := ∀ k < n, s.answers[s.log.length + k]? = some .ok

/-- The log entries of writes that were all answered ok. -/
def okEntries (w : List Write) : List LogEntry := w.map (fun x => ⟨x.1, x.2, .ok⟩)

/-- The device holds this image at this base (R194: what a claim about a configured divider says). -/
def ShowsImage (s : State) (base : Byte) (b : Image) : Prop :=
  ∀ w ∈ imageWrites base b, s.dev.read w.1.toNat = some w.2

/-! ## The test oracle of R104 (the block never computes it) -/

/-- `PLL_freq = Fxtal * (mult + num/denom)` (R18, R28). -/
def pllFrequency (pc : PllConfig) : ℚ := 25000000 * ((pc.mult : ℚ) + (pc.num : ℚ) / (pc.denom : ℚ))

/-- The reconstructed frequency of a PLL and an output divider, exact (R104). -/
def recon (pc : PllConfig) (mc : OutputConfig) : ℚ :=
  pllFrequency pc / (((mc.div : ℚ) + (mc.y : ℚ) / (mc.z : ℚ)) * (2 : ℚ) ^ mc.rdiv.toNat)

/-! ## The quadrature pair (R105, R154, R199) -/

/-- R154's commands after `PLANIQ f` gave `(pc, mc)`: the PLL, the first channel with phase 0, the second with phase `d`. -/
def quadratureCommands (q : Pll) (c0 c1 : Byte) (drive : BitVec 2) (inv : Bool) (pc : PllConfig) (mc : OutputConfig) :
    List Instr :=
  let ch := fun (c phase : Byte) => Instr.cfgch c q drive inv (BitVec.ofNat 32 mc.div) (BitVec.ofNat 32 mc.y)
    (BitVec.ofNat 32 mc.z) mc.rdiv mc.ai phase
  [.cfgpll q (BitVec.ofNat 32 pc.mult) (BitVec.ofNat 32 pc.num) (BitVec.ofNat 32 pc.denom),
    ch c0 0, ch c1 (BitVec.ofNat 8 (mc.div % 256))]

/-- R199's conditions on the two channels of a pair: one PLL, one divider, rdiv 1, no integer mode, phases 0 and `d mod 256`. -/
def QuadraturePair (i j : Instr) : Prop :=
  match i, j with
  | .cfgch _ q _ _ d y z r ai ph, .cfgch _ q' _ _ d' y' z' r' ai' ph' =>
    q = q' ∧ d = d' ∧ y = y' ∧ z = z' ∧ r = r' ∧ ai = ai' ∧ r = 0 ∧ ai = false ∧ ph = 0
      ∧ ph' = BitVec.ofNat 8 (d.toNat % 256)
  | _, _ => False

end Sys2Proof.Machine
end

