-- ==== Sys2Proof/Certificates/Slice0/Obligations.lean ====
section
/-! DEFINITION. The statements for the provers, from the numbered rules of spec/. Each docstring names the rule it formalises. -/

open Sys2Proof Sys2Proof.Machine

/-! ## Encoding -/

/-- R60 to R62, R64: decoding the frame an encoder writes for a command gives the command back, with every operand at every value. -/
def Obligations.DecodeEncodeRoundTrip : Prop := ∀ i : Instr, decode (encode i) = .ok i

/-- R60 to R63, R174: the decoder accepts exactly the frames that are well formed by the operand table, and a frame that decodes is
the one frame of its command, so that no bit of it is ignored. That an empty frame and a frame longer than its opcode's length do
not decode is the model's choice (log entry 6, DEDUCED). -/
def Obligations.DecodeAcceptsExactlyEncodings : Prop :=
  (∀ fr : Frame, (∃ i, decode fr = .ok i) ↔ frameWellFormed fr = true) ∧
  (∀ (fr : Frame) (i : Instr), decode fr = .ok i → encode i = fr)

/-- Frames the spec writes out (R174, 95_test_vectors sections 2.1 to 2.10), one per command, and what they stand for. -/
def Obligations.SpecFramesDecode : Prop :=
  decode [0x01, 0xFF, 0xFF, 0xFF, 0xF1] = .ok (.setcorr (BitVec.ofInt 32 (-15))) ∧
  decode [0x02, 0x01, 0xAB, 0x3F, 0x00] = .ok (.plan 28000000) ∧
  decode [0x03, 0x00, 0x98, 0x96, 0x80] = .ok (.planiq 10000000) ∧
  decode [0x04, 0x00, 0x00, 0x00, 0x20, 0x00, 0x02, 0x42, 0xB4, 0x00, 0x0F, 0xD2, 0xED, 0x01]
    = .ok (.pcalc 32 148148 1037037 true) ∧
  decode [0x05, 0x00, 0x01, 0x23, 0x45, 0x00, 0x06, 0x78, 0x9A, 0x00, 0x0B, 0xCD, 0xEF, 0x01, 0x05]
    = .ok (.encode 0x12345 0x6789A 0xBCDEF 1 5) ∧
  decode [0x06, 0x02, 0x01, 0x01, 0x01, 0x00, 0x00, 0x00, 0x5A, 0x00, 0x00, 0x00, 0x00, 0x00, 0x00, 0x00, 0x01, 0x00, 0x01,
    0xC8] = .ok (.cfgch 2 .b 1 true 90 0 1 0 true 200) ∧
  decode [0x07, 0x00, 0x00, 0x00, 0x00, 0x24, 0x00, 0x00, 0x00, 0x00, 0x00, 0x0F, 0xE5, 0x02]
    = .ok (.cfgpll .a 36 0 1041666) ∧
  decode [0x08, 0x05] = .ok (.setoe 5) ∧
  decode [0x09, 0x00, 0x01, 0xAB, 0x3F, 0x00, 0x03] = .ok (.setup 0 28000000 3)

/-! ## Command entry -/

/-- R174: with no fault and a frame that decodes, a step is the execution of the command, on the state whose frame was taken. -/
def Obligations.StepRunsDecodedCommand : Prop :=
  ∀ (s : State) (fr : Frame) (rest : List Frame) (i : Instr),
    s.fault = none → s.frames = fr :: rest → decode fr = .ok i → step s = exec i { s with frames := rest }

/-- R63, R174: a reserved opcode or a malformed frame raises IllegalCommand, and nothing else that persists changes. For an
empty frame and a frame longer than its opcode's length this is the model's choice (log entry 6, DEDUCED). -/
def Obligations.MalformedFrameRaisesIllegalCommand : Prop :=
  ∀ (s : State) (fr : Frame) (rest : List Frame),
    s.fault = none → s.frames = fr :: rest → frameWellFormed fr = false →
      ∃ t, step s = .next t ∧ OnlyFault .illegalCommand { s with frames := rest } t

/-- R174, R177: while FAULT holds a code the block has no step. -/
def Obligations.FaultedBlockHasNoStep : Prop :=
  ∀ (s : State) (c : FaultCode), s.fault = some c → step s = .fault (.stuck c)

/-- The model's choice (log entry 4, after R191 "it waits"): with no frame presented the block waits and nothing changes. -/
def Obligations.IdleBlockWaits : Prop := ∀ s : State, s.fault = none → s.frames = [] → step s = .next s

/-- R170: a command that runs ends in exactly one of two ways: a status on the result port with no fault set, or a sticky fault,
which delivers no status (whether the port keeps what it held is left open, see log entry 5) and leaves the block no further
step. -/
def Obligations.CommandEndsInStatusOrFault : Prop :=
  ∀ (i : Instr) (s : State), s.fault = none →
    ∃ t, exec i s = .next t ∧ ((t.fault = none ∧ ∃ r, t.result = some r) ∨
      ∃ c, t.fault = some c ∧ (t.result = none ∨ t.result = s.result) ∧ step t = .fault (.stuck c))

/-! ## Reset -/

/-- R33, R190: the state after reset, and after resetting a running block whatever its state was (CORR is unspecified and is not
spoken of). That resetting a running block is `State.restart`, and that it keeps the platform, is the model's choice (log entry
12). -/
def Obligations.ResetClearsState : Prop :=
  (State.reset.corrValid = false ∧ State.reset.fault = none ∧ State.reset.log = [] ∧ State.reset.result = none ∧
    ∀ a, State.reset.dev.read a = none) ∧
  (∀ (frs : List Frame) (ans : List WriteOutcome) (s t : State), t = s.restart frs ans →
    t.corrValid = false ∧ t.fault = none ∧ t.log = [] ∧ t.result = none ∧ (∀ a, t.dev.read a = none) ∧
      t.platform = s.platform)

/-! ## SETCORR -/

/-- R140: SETCORR latches any value once; a second SETCORR raises AlreadyInitialized and changes nothing else. -/
def Obligations.SetcorrLatchesOnce : Prop :=
  ∀ (c : Word) (s : State),
    (s.corrValid = false →
      exec (.setcorr c) s = .next { s with corr := c, corrValid := true, result := some ⟨.ok, .nothing⟩ }) ∧
    (s.corrValid = true → ∃ t, exec (.setcorr c) s = .next t ∧ OnlyFault .alreadyInitialized s t)

/-- R21, R22, R198: once set, no step changes or clears the correction. -/
def Obligations.CorrectionNeverChangesOnceSet : Prop :=
  ∀ s t : State, s.corrValid = true → step s = .next t → t.corrValid = true ∧ t.corr = s.corr

/-! ## Planning -/

/-- R11: `tdiv` is the quotient of the magnitudes with the product of the signs; `tdiv(−150, 100) = −1`. -/
def Obligations.TdivRoundsTowardZero : Prop :=
  (∀ n d : Int, d ≠ 0 → tdiv n d = n.sign * d.sign * ((n.natAbs / d.natAbs : Nat) : Int)) ∧ tdiv (-150) 100 = -1

/-- R92: the correction moves F by the truncated magnitude, down for a positive correction and up for a negative one. -/
def Obligations.CorrectionShiftsByTruncatedAmount : Prop :=
  ∀ (f : Nat) (c : Int),
    (0 ≤ c → correct f c = (f : Int) - ((f / 1000000 * c.natAbs / 100 : Nat) : Int)) ∧
    (c ≤ 0 → correct f c = (f : Int) + ((f / 1000000 * c.natAbs / 100 : Nat) : Int))

/-- R94, properties (i) to (iv) of the reduction. -/
def Obligations.ReductionBounds : Prop :=
  ∀ r d : Nat, 1 ≤ d → r < d →
    1 ≤ (reduce r d).2 ∧ (reduce r d).2 ≤ 2 ^ 20 - 1 ∧ (reduce r d).1 ≤ (reduce r d).2 ∧
    ((reduce r d).1 = (reduce r d).2 ↔ (reduce r d).2 * (d / 2 ^ 20 + 1) ≤ r) ∧
    (d < 2 ^ 20 → reduce r d = (r, d))

/-- R91 to R99: what PLAN puts on the result port, in plain arithmetic, for every input whose corrected frequency F is positive. -/
def Obligations.PlanCompletes : Prop :=
  ∀ (f : Word) (s : State) (f0 F : Nat) (x : Nat) (r : BitVec 3),
    s.corrValid = true → f0 = clamp f.toNat 8000 160000000 → r = (if f0 < 1000000 then 6 else 0) →
    correct (if f0 < 1000000 then f0 * 64 else f0) s.corrInt = (F : Int) → 0 < F →
    x = (if 150000000 ≤ F then 4 else if 100000000 ≤ F then 6 else 8) →
    exec (.plan f) s = .next { s with result := some ⟨.ok,
      if F < 81000000 then
        .configs ⟨36, 0, 1⟩ ⟨900000000 / F, 900000000 % F / (F / 2 ^ 20 + 1), F / (F / 2 ^ 20 + 1), r, true⟩
      else .configs ⟨x * F / 25000000, x * F % 25000000 / 24, 1041666⟩ ⟨x, 0, 1, r, true⟩⟩ }

/-- R91, R92, R101 to R103: what PLANIQ puts on the result port, for every input whose corrected frequency F is positive.
That above 900 MHz the divider and the multiplier are 0 with status OK is the model's reading (log entry 7, DEDUCED): R102's prose
has the divider in [1, 127], its pseudocode gives 0. -/
def Obligations.PlaniqCompletes : Prop :=
  ∀ (f : Word) (s : State) (F d : Nat),
    s.corrValid = true → correct (clamp f.toNat 1400000 100000000) s.corrInt = (F : Int) → 0 < F →
    d = (if F < 4900000 then 127 else if F < 8000000 then 625000000 / F else 900000000 / F) →
    exec (.planiq f) s = .next { s with result := some ⟨.ok,
      .configs ⟨F * d / 25000000, F * d % 25000000 / 24, 1041666⟩ ⟨d, 0, 1, 0, false⟩⟩ }

/-- R93: a corrected frequency of 0 or below raises PlanDomain in both planners, and in SETUP, which runs PLAN's body; nothing is
written. -/
def Obligations.PlannersFaultOutsideDomain : Prop :=
  (∀ (f : Word) (s : State), s.corrValid = true →
    correct (prescale (clamp f.toNat 8000 160000000)).1 s.corrInt ≤ 0 →
      ∃ t, exec (.plan f) s = .next t ∧ OnlyFault .planDomain s t) ∧
  (∀ (f : Word) (s : State), s.corrValid = true → correct (clamp f.toNat 1400000 100000000) s.corrInt ≤ 0 →
      ∃ t, exec (.planiq f) s = .next t ∧ OnlyFault .planDomain s t) ∧
  (∀ (ch : Byte) (f : Word) (drive : BitVec 2) (s : State), s.corrValid = true → (ch = 0 ∨ ch = 2) →
    correct (prescale (clamp f.toNat 8000 160000000)).1 s.corrInt ≤ 0 →
      ∃ t, exec (.setup ch f drive) s = .next t ∧ OnlyFault .planDomain s t)

/-- R22, R175: before SETCORR, PLAN, PLANIQ and SETUP (whatever its channel) raise NotInitialized. -/
def Obligations.PlanningNeedsCorrection : Prop :=
  ∀ (f : Word) (ch : Byte) (drive : BitVec 2) (s : State) (i : Instr), s.corrValid = false →
    i ∈ [Instr.plan f, .planiq f, .setup ch f drive] → ∃ t, exec i s = .next t ∧ OnlyFault .notInitialized s t

/-- R91, R173: a frequency outside a planner's range behaves exactly as the nearest bound. -/
def Obligations.ClampIsSilent : Prop :=
  ∀ (f : Word) (s : State),
    (f.toNat ≤ 8000 → exec (.plan f) s = exec (.plan 8000) s) ∧
    (160000000 ≤ f.toNat → exec (.plan f) s = exec (.plan 160000000) s) ∧
    (f.toNat ≤ 1400000 → exec (.planiq f) s = exec (.planiq 1400000) s) ∧
    (100000000 ≤ f.toNat → exec (.planiq f) s = exec (.planiq 100000000) s)

/-- R90, R94 and conflict C3: every planned configuration keeps its fractions within 20 bits, with numerator ≤ denominator. -/
def Obligations.PlannedFractionsBounded : Prop :=
  ∀ (f : Word) (s t : State) (i : Instr) (pc : PllConfig) (mc : OutputConfig),
    i ∈ [Instr.plan f, .planiq f] → exec i s = .next t → t.result = some ⟨.ok, .configs pc mc⟩ →
      1 ≤ pc.denom ∧ pc.denom ≤ 2 ^ 20 - 1 ∧ pc.num ≤ pc.denom ∧ 1 ≤ mc.z ∧ mc.z ≤ 2 ^ 20 - 1 ∧ mc.y ≤ mc.z

/-- R97, R98, R99: PLAN's two shapes of result: the fixed PLL with a divider of at least 11, or denominator 1041666 with a divider
of 4, 6 or 8 and no fraction; integer mode is allowed on both. -/
def Obligations.PlanResultShapes : Prop :=
  ∀ (f : Word) (s t : State) (pc : PllConfig) (mc : OutputConfig),
    exec (.plan f) s = .next t → t.result = some ⟨.ok, .configs pc mc⟩ →
      mc.ai = true ∧
        ((pc = ⟨36, 0, 1⟩ ∧ 11 ≤ mc.div) ∨
          (pc.denom = 1041666 ∧ (mc.div = 4 ∨ mc.div = 6 ∨ mc.div = 8) ∧ mc.y = 0 ∧ mc.z = 1))

/-- R102: up to 900 MHz the quadrature divider lies in [1, 127]; above it, which only a large negative correction reaches, it
is 0: that clause is the model's reading (log entry 7, DEDUCED), after R102's pseudocode and against its prose. -/
def Obligations.QuadratureDividerRange : Prop :=
  ∀ F : Nat, (0 < F → F ≤ 900000000 → 1 ≤ iqDiv F ∧ iqDiv F ≤ 127) ∧ (900000000 < F → iqDiv F = 0)

/-- R105, R199: after any PLANIQ, R154's two channel commands meet R199's conditions, and the 7-bit mask leaves the second phase
operand, `d`, as it is (above 900 MHz `d` is 0, the model's reading, log entry 7). -/
def Obligations.QuadratureCommandsFormPair : Prop :=
  ∀ (c : Int) (f : Nat) (pc : PllConfig) (mc : OutputConfig) (q : Pll) (c0 c1 : Byte) (drive : BitVec 2) (inv : Bool),
    planIqBody c f = .ok (pc, mc) →
      (∃ i j k, quadratureCommands q c0 c1 drive inv pc mc = [i, j, k] ∧ QuadraturePair j k) ∧
        (phaseByte (BitVec.ofNat 8 (mc.div % 256))).toNat = mc.div

/-- R104: the source's 6 Hz bound on PLAN, which the spec says is no rule and does not hold (conflict C4). -/
def Obligations.PlanErrorWithinSixHertz : Prop :=
  ∀ (f : Nat) (pc : PllConfig) (mc : OutputConfig), 8000 ≤ f → f ≤ 160000000 → planBody 0 f = .ok (pc, mc) →
    |recon pc mc - (f : ℚ)| ≤ 6

/-- R98, R104: on the Case B path the reconstructed frequency is within 6 Hz of the corrected one. -/
def Obligations.CaseBErrorUnderSixHertz : Prop :=
  ∀ F : Nat, 81000000 ≤ F → |recon (caseB F 0).1 (caseB F 0).2 - (F : ℚ)| < 6

/-- R103, R104: up to 100 MHz PLANIQ's reconstructed frequency is within 23/9 Hz (2.5556) of the corrected one. -/
def Obligations.PlaniqErrorBound : Prop :=
  ∀ F : Nat, 0 < F → F ≤ 100000000 →
    |recon (iqPll F (iqDiv F)) ⟨iqDiv F, 0, 1, 0, false⟩ - (F : ℚ)| ≤ 23 / 9

/-! ## Parameters and images -/

/-- R121: the divider legality rule; R130, R131: the two integer-mode eligibility rules. -/
def Obligations.DividerAndIntegerModeRules : Prop :=
  (∀ (div y : Nat) (ai : Bool),
    legalDiv div y ai = true ↔ 8 ≤ div ∨ (div = 4 ∧ ai = true) ∨ (div = 6 ∧ ai = true ∧ y = 0)) ∧
  (∀ pc : PllConfig, intPll pc = true ↔ pc.num = 0 ∧ pc.mult % 2 = 0) ∧
  (∀ (div y : Nat) (ai : Bool), intMs div y ai = true ↔ ai = true ∧ (div = 4 ∨ y = 0) ∧ div % 2 = 0)

/-- R122, R123: PCALC on a divider within range, by the formula. -/
def Obligations.PcalcCompletes : Prop :=
  ∀ (i n d : Word) (ms : Bool) (s : State) (q : Nat),
    ¬(ms = true ∧ i.toNat = 4) → 1 ≤ d.toNat → d.toNat ≤ 2 ^ 20 - 1 → n.toNat ≤ d.toNat →
    q = 128 * n.toNat / d.toNat → 512 ≤ 128 * i.toNat + q → 128 * i.toNat + q - 512 < 2 ^ 18 →
      ∃ p : PValues, exec (.pcalc i n d ms) s = .next { s with result := some ⟨.ok, .params p⟩ } ∧
        p.p1.toNat = 128 * i.toNat + q - 512 ∧ p.p2.toNat = 128 * n.toNat - d.toNat * q ∧ p.p3.toNat = d.toNat

/-- R124: a multisynth divider of 4 gives (0, 0, 1) whatever its fraction, which is not range-checked, and its divBy4 code is 0b11;
a PLL multiplier of 4 is not special: its fraction is range-checked whole, a fraction in range gives the P values of R123's formula,
and its divBy4 code is 0. -/
def Obligations.PcalcDivideByFour : Prop :=
  (∀ (n d : Word) (s : State),
    exec (.pcalc 4 n d true) s = .next { s with result := some ⟨.ok, .params ⟨0, 0, 1⟩⟩ }) ∧
  (∀ (y z : Nat) (rdiv : BitVec 3) (ai : Bool), pMs ⟨4, y, z, rdiv, ai⟩ = .ok (⟨0, 0, 1⟩, 0b11, rdiv)) ∧
  (∀ n d : Nat, d = 0 ∨ 2 ^ 20 - 1 < d ∨ d < n → pPll ⟨4, n, d⟩ = .error .paramRange) ∧
  (∀ n d : Nat, 1 ≤ d → d ≤ 2 ^ 20 - 1 → n ≤ d →
    ∃ p : PValues, pPll ⟨4, n, d⟩ = .ok (p, 0b00, 0) ∧
      p.p1.toNat = 128 * n / d ∧ p.p2.toNat = 128 * n - d * (128 * n / d) ∧ p.p3.toNat = d)

/-- R123: exactly which dividers `pvals` refuses, a PLL's and a multisynth's alike but for the multisynth divider 4. P1 is negative when i ≤ 2, or i = 3 and n < d; P1 is too wide when
i ≥ 2052, or i = 2051 and n = d. -/
def Obligations.PvalsRefusesExactly : Prop :=
  ∀ (i n d : Nat) (ms : Bool),
    pvals i n d ms = .error .paramRange ↔
      ¬(ms = true ∧ i = 4) ∧
        (d = 0 ∨ 2 ^ 20 - 1 < d ∨ d < n ∨ i ≤ 2 ∨ (i = 3 ∧ n < d) ∨ 2052 ≤ i ∨ (i = 2051 ∧ n = d))

/-- R128: the P encoding is exact. -/
def Obligations.PvaluesAreExact : Prop :=
  ∀ (i n d : Nat) (ms : Bool) (p : PValues), pvals i n d ms = .ok p →
    (¬(ms = true ∧ i = 4) →
      ((p.p1.toNat : ℚ) + 512 + (p.p2.toNat : ℚ) / (p.p3.toNat : ℚ)) / 128 = (i : ℚ) + (n : ℚ) / (d : ℚ)) ∧
    (ms = true ∧ i = 4 →
      ((p.p1.toNat : ℚ) + 512 + (p.p2.toNat : ℚ) / (p.p3.toNat : ℚ)) / 128 = 4)

/-- R66, R127: ENCODE on P values that fit, byte by byte in plain arithmetic. -/
def Obligations.EncodeCompletes : Prop :=
  ∀ (p1 p2 p3 : Word) (d4 : BitVec 2) (rdiv : BitVec 3) (s : State),
    p1.toNat < 2 ^ 18 → p2.toNat < 2 ^ 20 → p3.toNat < 2 ^ 20 →
      ∃ b : Image, exec (.encode p1 p2 p3 d4 rdiv) s = .next { s with result := some ⟨.ok, .image b⟩ } ∧
        b.b0.toNat = p3.toNat / 2 ^ 8 % 2 ^ 8 ∧ b.b1.toNat = p3.toNat % 2 ^ 8 ∧
        b.b2.toNat = 16 * rdiv.toNat + 4 * d4.toNat + p1.toNat / 2 ^ 16 ∧
        b.b3.toNat = p1.toNat / 2 ^ 8 % 2 ^ 8 ∧ b.b4.toNat = p1.toNat % 2 ^ 8 ∧
        b.b5.toNat = 16 * (p3.toNat / 2 ^ 16) + p2.toNat / 2 ^ 16 ∧
        b.b6.toNat = p2.toNat / 2 ^ 8 % 2 ^ 8 ∧ b.b7.toNat = p2.toNat % 2 ^ 8

/-- R129: decoding an image gives back the fields, and bit 7 of byte 2 is ignored; R68: ENCODE writes that bit 0. -/
def Obligations.ImageRoundTrip : Prop :=
  (∀ (p : PValues) (d4 : BitVec 2) (rdiv : BitVec 3),
    unimg8 (img8 p d4 rdiv) = (p, d4, rdiv) ∧ (img8 p d4 rdiv).b2.toNat < 128) ∧
  (∀ b : Image, unimg8 { b with b2 := b.b2 ||| 0x80 } = unimg8 b)

/-! ## Single-byte registers -/

/-- R71: the output-enable byte is 0xFF − mask, every bit inverted; R72: the phase byte is the operand's low 7 bits. -/
def Obligations.OutputEnableAndPhaseBytes : Prop :=
  (∀ m : Byte, (oeByte m).toNat = 0xFF - m.toNat ∧ ∀ i < 8, (oeByte m).getLsbD i = !m.getLsbD i) ∧
  (∀ x : Byte, (phaseByte x).toNat = x.toNat % 128)

/-- R70: on every platform the clock-control byte shows each field at its position, and CTRL_CONST everywhere else. -/
def Obligations.ControlByteFields : Prop :=
  ∀ (p : Platform) (l : CtrlLayout) (intb src inv : Bool) (drive : BitVec 2), l = p.params.layout →
    (ctrlOf l intb src inv drive).getLsbD l.posInt = intb ∧
    (ctrlOf l intb src inv drive).getLsbD l.posSrc = src ∧
    (ctrlOf l intb src inv drive).getLsbD l.posInv = inv ∧
    (ctrlOf l intb src inv drive).getLsbD l.posDrv = drive.getLsbD 0 ∧
    (ctrlOf l intb src inv drive).getLsbD (l.posDrv + 1) = drive.getLsbD 1 ∧
    ∀ k, k ≠ l.posInt → k ≠ l.posSrc → k ≠ l.posInv → k ≠ l.posDrv → k ≠ l.posDrv + 1 →
      (ctrlOf l intb src inv drive).getLsbD k = l.const.getLsbD k

/-- R46, R7: an image's eight addresses are base, base + 1, ..., base + 7, and none wraps past 255. -/
def Obligations.ImageAddressesDoNotWrap : Prop :=
  ∀ (p : Platform) (c : Channel) (q : Pll) (b : Image),
    (imageWrites (addrMs p c) b).map (fun w => w.1.toNat) = (List.range 8).map (fun k => (addrMs p c).toNat + k) ∧
    (imageWrites (addrPll p q) b).map (fun w => w.1.toNat) = (List.range 8).map (fun k => (addrPll p q).toNat + k)

/-! ## Programming the device -/

/-- R141, R145: CFGCH on a valid channel with a legal divider whose P values are in range performs exactly these ten writes. -/
def Obligations.CfgchPerformsTenWrites : Prop :=
  ∀ (ch : Byte) (pll : Pll) (drive : BitVec 2) (inv : Bool) (div y z : Word) (rdiv : BitVec 3) (ai : Bool) (phase : Byte)
    (s : State) (c : Channel) (p : PValues) (b : Image),
    (ch = 0 ∧ c = .ch0) ∨ (ch = 1 ∧ c = .ch1) ∨ (ch = 2 ∧ c = .ch2) → legalDiv div.toNat y.toNat ai = true → pvals div.toNat y.toNat z.toNat true = .ok p →
    b = img8 p (if div.toNat = 4 then 3 else 0) rdiv →
      exec (.cfgch ch pll drive inv div y z rdiv ai phase) s = .next (s.perform
        [(addrCtrl s.platform c,
            ctrlOf s.platform.params.layout (intMs div.toNat y.toNat ai) (decide (pll = .b)) inv drive),
          (addrMs s.platform c, b.b0), (addrMs s.platform c + 1, b.b1), (addrMs s.platform c + 2, b.b2),
          (addrMs s.platform c + 3, b.b3), (addrMs s.platform c + 4, b.b4), (addrMs s.platform c + 5, b.b5),
          (addrMs s.platform c + 6, b.b6), (addrMs s.platform c + 7, b.b7),
          (addrPhase s.platform c, phase &&& 0x7F)])

/-- R142, R153, R175: CFGCH refuses a channel above 2 whatever its divider, SETUP any channel but 0 and 2, 1 included: InvalidChannel
with zero writes. -/
def Obligations.UnsupportedChannelsRefused : Prop :=
  (∀ (ch : Byte) (pll : Pll) (drive : BitVec 2) (inv : Bool) (div y z : Word) (rdiv : BitVec 3) (ai : Bool) (phase : Byte)
    (s : State), 2 < ch.toNat →
      exec (.cfgch ch pll drive inv div y z rdiv ai phase) s
        = .next { s with result := some ⟨.invalidChannel, .nothing⟩ }) ∧
  (∀ (ch : Byte) (f : Word) (drive : BitVec 2) (s : State), s.corrValid = true → ch ≠ 0 → ch ≠ 2 →
    exec (.setup ch f drive) s = .next { s with result := some ⟨.invalidChannel, .nothing⟩ })

/-- R121, R141, R175: an illegal divider on a valid channel is InvalidDivider with zero writes, whatever the P values. -/
def Obligations.CfgchRefusesDivider : Prop :=
  ∀ (ch : Byte) (pll : Pll) (drive : BitVec 2) (inv : Bool) (div y z : Word) (rdiv : BitVec 3) (ai : Bool) (phase : Byte)
    (s : State), ch.toNat ≤ 2 → legalDiv div.toNat y.toNat ai = false →
      exec (.cfgch ch pll drive inv div y z rdiv ai phase) s
        = .next { s with result := some ⟨.invalidDivider, .nothing⟩ }

/-- R123, R127, R143, R172: parameters out of range raise ParamRange with zero writes, in PCALC, ENCODE, CFGCH, CFGPLL and SETUP. -/
def Obligations.OutOfRangeParametersRaiseParamRange : Prop :=
  (∀ (i n d : Word) (ms : Bool) (s : State), pvals i.toNat n.toNat d.toNat ms = .error .paramRange →
      ∃ t, exec (.pcalc i n d ms) s = .next t ∧ OnlyFault .paramRange s t) ∧
  (∀ (p1 p2 p3 : Word) (d4 : BitVec 2) (rdiv : BitVec 3) (s : State),
    (2 ^ 18 ≤ p1.toNat ∨ 2 ^ 20 ≤ p2.toNat ∨ 2 ^ 20 ≤ p3.toNat) →
      ∃ t, exec (.encode p1 p2 p3 d4 rdiv) s = .next t ∧ OnlyFault .paramRange s t) ∧
  (∀ (ch : Byte) (pll : Pll) (drive : BitVec 2) (inv : Bool) (div y z : Word) (rdiv : BitVec 3) (ai : Bool) (phase : Byte)
    (s : State), ch.toNat ≤ 2 → legalDiv div.toNat y.toNat ai = true →
      pvals div.toNat y.toNat z.toNat true = .error .paramRange →
      ∃ t, exec (.cfgch ch pll drive inv div y z rdiv ai phase) s = .next t ∧ OnlyFault .paramRange s t) ∧
  (∀ (q : Pll) (mult num denom : Word) (s : State),
    pvals mult.toNat num.toNat denom.toNat false = .error .paramRange →
      ∃ t, exec (.cfgpll q mult num denom) s = .next t ∧ OnlyFault .paramRange s t) ∧
  (∀ (ch : Byte) (f : Word) (drive : BitVec 2) (s : State) (pc : PllConfig) (mc : OutputConfig),
    s.corrValid = true → (ch = 0 ∨ ch = 2) → planBody s.corrInt f.toNat = .ok (pc, mc) →
      (pvals pc.mult pc.num pc.denom false = .error .paramRange ∨ pvals mc.div mc.y mc.z true = .error .paramRange) →
      ∃ t, exec (.setup ch f drive) s = .next t ∧ OnlyFault .paramRange s t)

/-- R146 to R149: CFGPLL on a divider in range performs the image, the optional integer-mode write and the reset of both PLLs. -/
def Obligations.CfgpllPerformsWrites : Prop :=
  ∀ (q : Pll) (mult num denom : Word) (s : State) (p : PValues) (b : Image),
    pvals mult.toNat num.toNat denom.toNat false = .ok p → b = img8 p 0 0 →
      exec (.cfgpll q mult num denom) s = .next (s.perform
        ([(addrPll s.platform q, b.b0), (addrPll s.platform q + 1, b.b1), (addrPll s.platform q + 2, b.b2),
          (addrPll s.platform q + 3, b.b3), (addrPll s.platform q + 4, b.b4), (addrPll s.platform q + 5, b.b5),
          (addrPll s.platform q + 6, b.b6), (addrPll s.platform q + 7, b.b7)]
        ++ (if s.platform.params.pllIntOpt = true ∧ num.toNat = 0 ∧ mult.toNat % 2 = 0 then
              [(addrPllInt s.platform q, valPllInt s.platform q)] else [])
        ++ [(s.platform.params.pllReset, s.platform.params.pllResetVal)]))

/-- R149: a CFGPLL that ends with OK has just written the PLL reset, whichever PLL it configured. -/
def Obligations.CfgpllEndsWithReset : Prop :=
  ∀ (q : Pll) (mult num denom : Word) (s t : State) (out : Output),
    exec (.cfgpll q mult num denom) s = .next t → t.result = some ⟨.ok, out⟩ →
      t.log.getLast? = some ⟨s.platform.params.pllReset, s.platform.params.pllResetVal, .ok⟩

/-- R71, R151, R43: SETOE makes exactly one write, of the complement of its mask, whatever the correction; the shadow and the status
follow the transport's answer. -/
def Obligations.SetoeWritesComplement : Prop :=
  ∀ (m : Byte) (s : State) (o : WriteOutcome), o = s.transportAnswer s.platform.params.oe (oeByte m) →
    ∃ t, exec (.setoe m) s = .next t ∧
      t.log = s.log ++ [⟨s.platform.params.oe, ~~~m, o⟩] ∧
      t.dev.read s.platform.params.oe.toNat = (if o = .ok then some (~~~m) else none) ∧
      (∀ a, a ≠ s.platform.params.oe.toNat → t.dev.read a = s.dev.read a) ∧
      t.result = some ⟨if o = .ok then .ok else .transportFailure, .nothing⟩ ∧
      t.fault = s.fault ∧ SameCorr s t ∧ SameInputs s t

/-- R152, R153: SETUP on channel 0 or 2 plans, then performs the PLL's writes and the channel's, 19 of them or 20 with the
integer-mode write, on PLL A or B, not inverted, phase 0. -/
def Obligations.SetupPerformsWrites : Prop :=
  ∀ (ch : Byte) (f : Word) (drive : BitVec 2) (s : State) (c : Channel) (q : Pll) (pc : PllConfig) (mc : OutputConfig)
    (pp pm : PValues) (w : List Write),
    s.corrValid = true → ((ch = 0 ∧ c = .ch0 ∧ q = .a) ∨ (ch = 2 ∧ c = .ch2 ∧ q = .b)) →
    planBody s.corrInt f.toNat = .ok (pc, mc) →
    pvals pc.mult pc.num pc.denom false = .ok pp → pvals mc.div mc.y mc.z true = .ok pm →
    w = imageWrites (addrPll s.platform q) (img8 pp 0 0)
      ++ (if s.platform.params.pllIntOpt = true ∧ pc.num = 0 ∧ pc.mult % 2 = 0 then
            [(addrPllInt s.platform q, valPllInt s.platform q)] else [])
      ++ [(s.platform.params.pllReset, s.platform.params.pllResetVal)]
      ++ [(addrCtrl s.platform c,
            ctrlOf s.platform.params.layout (intMs mc.div mc.y mc.ai) (decide (q = .b)) false drive)]
      ++ imageWrites (addrMs s.platform c) (img8 pm (if mc.div = 4 then 3 else 0) mc.rdiv)
      ++ [(addrPhase s.platform c, 0)] →
      exec (.setup ch f drive) s = .next (s.perform w) ∧
        w.length = if s.platform.params.pllIntOpt = true ∧ pc.num = 0 ∧ pc.mult % 2 = 0 then 20 else 19

/-- R152: InvalidDivider cannot arise from PLAN's results, so SETUP never returns it. -/
def Obligations.SetupNeverInvalidDivider : Prop :=
  ∀ (ch : Byte) (f : Word) (drive : BitVec 2) (s t : State) (out : Output),
    exec (.setup ch f drive) s = .next t → t.result ≠ some ⟨.invalidDivider, out⟩

/-- R150, R51: when the transport answers every write ok, a write list is logged whole and in order, the shadow takes every write
in order, and the status is OK. -/
def Obligations.PerformAllOk : Prop :=
  ∀ (w : List Write) (s : State), AnswersOk s w.length →
    (s.perform w).log = s.log ++ okEntries w ∧ (s.perform w).dev = (okEntries w).foldl Memory.applyWrite s.dev ∧
      (s.perform w).result = some ⟨.ok, .nothing⟩

/-- R141, R145, R194: a CFGCH whose ten writes are answered ok leaves the device holding the divider's image (where the phase
register is no part of the image). -/
def Obligations.ConfiguredChannelShowsImage : Prop :=
  ∀ (ch : Byte) (pll : Pll) (drive : BitVec 2) (inv : Bool) (div y z : Word) (rdiv : BitVec 3) (ai : Bool) (phase : Byte)
    (s : State) (c : Channel) (p : PValues),
    (ch = 0 ∧ c = .ch0) ∨ (ch = 1 ∧ c = .ch1) ∨ (ch = 2 ∧ c = .ch2) → legalDiv div.toNat y.toNat ai = true → pvals div.toNat y.toNat z.toNat true = .ok p →
    inImage (addrMs s.platform c) (addrPhase s.platform c) = false → AnswersOk s 10 →
      ∃ t, exec (.cfgch ch pll drive inv div y z rdiv ai phase) s = .next t ∧ t.result = some ⟨.ok, .nothing⟩ ∧
        ShowsImage t (addrMs s.platform c) (img8 p (divBy4Code div.toNat) rdiv) ∧
        t.dev.read (addrPhase s.platform c).toNat = some (phaseByte phase)

/-- R196: with every write ok and no shared address, configuring a PLL and a channel in either order leaves the same shadow. -/
def Obligations.PllAndChannelOrderFree : Prop :=
  ∀ (s : State) (wp wc : List Write), AnswersOk s (wp.length + wc.length) →
    (∀ x ∈ wp, ∀ y ∈ wc, x.1 ≠ y.1) →
      ∀ a, ((s.perform wp).perform wc).dev.read a = ((s.perform wc).perform wp).dev.read a

/-! ## Frames -/

/-- R21, R26, R40, R95, R101, R122, R127: PLAN, PLANIQ, PCALC and ENCODE write no device register, and change nothing but the
result port, or FAULT for a fault. -/
def Obligations.FrameOfComputingCommands : Prop :=
  ∀ (i : Instr) (s t : State) (f x y z : Word) (ms : Bool) (d4 : BitVec 2) (rdiv : BitVec 3),
    i ∈ [Instr.plan f, .planiq f, .pcalc x y z ms, .encode x y z d4 rdiv] → exec i s = .next t →
      SameCorr s t ∧ SameInputs s t ∧ SameDevice s t ∧
        (t.fault = s.fault ∨ ∃ c, t.fault = some c ∧ raises i c = true)

/-- R141, R146, R151, R152, R156: CFGCH, CFGPLL, SETOE and SETUP change no register of the block but FAULT for a fault, and no
device register but those their own write lists name. -/
def Obligations.FrameOfWritingCommands : Prop :=
  (∀ (ch : Byte) (pll : Pll) (drive : BitVec 2) (inv : Bool) (div y z : Word) (rdiv : BitVec 3) (ai : Bool) (phase : Byte)
    (s t : State), exec (.cfgch ch pll drive inv div y z rdiv ai phase) s = .next t →
      DeliverFrame (cfgchWrites s.platform ch pll drive inv ⟨div.toNat, y.toNat, z.toNat, rdiv, ai⟩ phase) s t) ∧
  (∀ (q : Pll) (mult num denom : Word) (s t : State), exec (.cfgpll q mult num denom) s = .next t →
      DeliverFrame (cfgpllWrites s.platform q ⟨mult.toNat, num.toNat, denom.toNat⟩) s t) ∧
  (∀ (m : Byte) (s t : State), exec (.setoe m) s = .next t →
      DeliverFrame (.ok [(s.platform.params.oe, oeByte m)]) s t) ∧
  (∀ (ch : Byte) (f : Word) (drive : BitVec 2) (s t : State), exec (.setup ch f drive) s = .next t →
      DeliverFrame (setupWrites s.platform s.corrValid s.corrInt ch f.toNat drive) s t)

/-! ## Whole-machine rules -/

/-- R172, R176: a command that raises a fault has no other effect. -/
def Obligations.FaultingCommandOnlySetsFault : Prop :=
  ∀ (i : Instr) (s t : State) (c : FaultCode), s.fault = none → exec i s = .next t → t.fault = some c → OnlyFault c s t

/-- R171, R172: each fault is raised, and each status returned, only by the commands its row of the table names. -/
def Obligations.OutcomesOfTheirCommands : Prop :=
  ∀ (i : Instr) (s t : State), s.fault = none → exec i s = .next t →
    (∀ c, t.fault = some c → raises i c = true) ∧
    (∀ r, t.fault = none → t.result = some r → returns i r.status = true)

/-- R176: InvalidChannel and InvalidDivider are precise: they change nothing but the result port. -/
def Obligations.RefusalStatusesArePrecise : Prop :=
  ∀ (i : Instr) (s t : State) (st : Status) (out : Output), exec i s = .next t → t.result = some ⟨st, out⟩ →
    (st = .invalidChannel ∨ st = .invalidDivider) → t = { s with result := some ⟨st, .nothing⟩ }

/-- R150, R171, R176: a command that ends with TransportFailure has performed its own write list, of which the log has gained the
writes up to the failed one, in order; that one alone is err and comes last; FAULT is as it was. -/
def Obligations.TransportFailureLogsThePrefix : Prop :=
  ∀ (i : Instr) (s t : State) (out : Output), exec i s = .next t → t.result = some ⟨.transportFailure, out⟩ →
    t.fault = s.fault ∧
      ∃ (before after : List Write) (a v : Byte),
        commandWrites i s = .ok (before ++ (a, v) :: after) ∧ t = s.perform (before ++ (a, v) :: after) ∧
        t.log = s.log ++ okEntries before ++ [⟨a, v, .err⟩]

/-- R150, R171: a command that ends with OK has logged all of its own write list, in order, every write answered ok. -/
def Obligations.OkMeansEveryWriteOk : Prop :=
  ∀ (i : Instr) (s t : State) (out : Output), exec i s = .next t → t.result = some ⟨.ok, out⟩ →
    ∃ w : List Write, commandWrites i s = .ok w ∧ t.log = s.log ++ okEntries w

/-- R29, R48, R51, R7: no step drops, merges or reorders what was logged, or changes the configuration (nor the transport's answers,
the model's own field of log entry 3). -/
def Obligations.StepKeepsHistoryAndConfiguration : Prop :=
  ∀ s t : State, step s = .next t →
    (∃ more, t.log = s.log ++ more) ∧ t.platform = s.platform ∧ t.answers = s.answers

/-! ## Invariants -/

/-- R30, R43: if DEV is what LOG leaves, it still is after a step. -/
def Obligations.ShadowReplaysLogEveryStep : Prop :=
  ∀ s t : State, ShadowIsReplay s → step s = .next t → ShadowIsReplay t

/-- R30: the shadow stays in its canonical form (the form is the model's). -/
def Obligations.ShadowCanonicalEveryStep : Prop :=
  ∀ s t : State, s.dev.wf → step s = .next t → t.dev.wf

/-- R42, R156: every write the block ever makes goes to a parameter address, or a parameter base plus 0 to 7. -/
def Obligations.WritesStayOnParameterAddresses : Prop :=
  ∀ s t : State, LogWithinPlatform s → step s = .next t → LogWithinPlatform t

/-- The three invariants hold at reset. -/
def Obligations.InvariantsHoldAtReset : Prop :=
  ShadowIsReplay State.reset ∧ State.reset.dev.wf ∧ LogWithinPlatform State.reset
end

