-- ==== Sys2Proof/Laws/State.lean ====
section
/-! SUPPORT. One lemma per field per update of State, so that no proof unfolds a record update. -/

namespace Sys2Proof.Machine

section Finish
variable (st : Status) (out : Output) (s : State)

@[simp] theorem finish_corr : (s.finish st out).corr = s.corr := rfl
@[simp] theorem finish_corrValid : (s.finish st out).corrValid = s.corrValid := rfl
@[simp] theorem finish_fault : (s.finish st out).fault = s.fault := rfl
@[simp] theorem finish_log : (s.finish st out).log = s.log := rfl
@[simp] theorem finish_dev : (s.finish st out).dev = s.dev := rfl
@[simp] theorem finish_result : (s.finish st out).result = some ⟨st, out⟩ := rfl
@[simp] theorem finish_platform : (s.finish st out).platform = s.platform := rfl
@[simp] theorem finish_frames : (s.finish st out).frames = s.frames := rfl
@[simp] theorem finish_answers : (s.finish st out).answers = s.answers := rfl

end Finish

section Raise
variable (c : FaultCode) (s : State)

@[simp] theorem raise_corr : (s.raise c).corr = s.corr := rfl
@[simp] theorem raise_corrValid : (s.raise c).corrValid = s.corrValid := rfl
@[simp] theorem raise_fault : (s.raise c).fault = some c := rfl
@[simp] theorem raise_log : (s.raise c).log = s.log := rfl
@[simp] theorem raise_dev : (s.raise c).dev = s.dev := rfl
@[simp] theorem raise_result : (s.raise c).result = none := rfl
@[simp] theorem raise_platform : (s.raise c).platform = s.platform := rfl
@[simp] theorem raise_frames : (s.raise c).frames = s.frames := rfl
@[simp] theorem raise_answers : (s.raise c).answers = s.answers := rfl

end Raise

section BusWrite
variable (a v : Byte) (s : State)

@[simp] theorem busWrite_corr : (s.busWrite a v).corr = s.corr := rfl
@[simp] theorem busWrite_corrValid : (s.busWrite a v).corrValid = s.corrValid := rfl
@[simp] theorem busWrite_fault : (s.busWrite a v).fault = s.fault := rfl
@[simp] theorem busWrite_log : (s.busWrite a v).log = s.log ++ [s.busEntry a v] := rfl
@[simp] theorem busWrite_dev : (s.busWrite a v).dev = s.dev.applyWrite (s.busEntry a v) := rfl
@[simp] theorem busWrite_result : (s.busWrite a v).result = s.result := rfl
@[simp] theorem busWrite_platform : (s.busWrite a v).platform = s.platform := rfl
@[simp] theorem busWrite_frames : (s.busWrite a v).frames = s.frames := rfl
@[simp] theorem busWrite_answers : (s.busWrite a v).answers = s.answers := rfl

end BusWrite

section LatchCorr
variable (w : Word) (s : State)

@[simp] theorem latchCorr_corr : (s.latchCorr w).corr = w := rfl
@[simp] theorem latchCorr_corrValid : (s.latchCorr w).corrValid = true := rfl
@[simp] theorem latchCorr_fault : (s.latchCorr w).fault = s.fault := rfl
@[simp] theorem latchCorr_log : (s.latchCorr w).log = s.log := rfl
@[simp] theorem latchCorr_dev : (s.latchCorr w).dev = s.dev := rfl
@[simp] theorem latchCorr_result : (s.latchCorr w).result = s.result := rfl
@[simp] theorem latchCorr_platform : (s.latchCorr w).platform = s.platform := rfl
@[simp] theorem latchCorr_frames : (s.latchCorr w).frames = s.frames := rfl
@[simp] theorem latchCorr_answers : (s.latchCorr w).answers = s.answers := rfl

end LatchCorr

section TakeFrame
variable (r : List Frame) (s : State)

@[simp] theorem takeFrame_corr : (s.takeFrame r).corr = s.corr := rfl
@[simp] theorem takeFrame_corrValid : (s.takeFrame r).corrValid = s.corrValid := rfl
@[simp] theorem takeFrame_fault : (s.takeFrame r).fault = s.fault := rfl
@[simp] theorem takeFrame_log : (s.takeFrame r).log = s.log := rfl
@[simp] theorem takeFrame_dev : (s.takeFrame r).dev = s.dev := rfl
@[simp] theorem takeFrame_result : (s.takeFrame r).result = s.result := rfl
@[simp] theorem takeFrame_platform : (s.takeFrame r).platform = s.platform := rfl
@[simp] theorem takeFrame_frames : (s.takeFrame r).frames = r := rfl
@[simp] theorem takeFrame_answers : (s.takeFrame r).answers = s.answers := rfl

end TakeFrame

section Present
variable (fr : Frame) (s : State)

@[simp] theorem present_corr : (s.present fr).corr = s.corr := rfl
@[simp] theorem present_corrValid : (s.present fr).corrValid = s.corrValid := rfl
@[simp] theorem present_fault : (s.present fr).fault = s.fault := rfl
@[simp] theorem present_log : (s.present fr).log = s.log := rfl
@[simp] theorem present_dev : (s.present fr).dev = s.dev := rfl
@[simp] theorem present_result : (s.present fr).result = s.result := rfl
@[simp] theorem present_platform : (s.present fr).platform = s.platform := rfl
@[simp] theorem present_frames : (s.present fr).frames = fr :: s.frames := rfl
@[simp] theorem present_answers : (s.present fr).answers = s.answers := rfl

end Present

/-- The two fields a write's entry copies from the call. -/
@[simp] theorem busEntry_addr (s : State) (a v : Byte) : (s.busEntry a v).addr = a := rfl
@[simp] theorem busEntry_val (s : State) (a v : Byte) : (s.busEntry a v).val = v := rfl
@[simp] theorem busEntry_outcome (s : State) (a v : Byte) : (s.busEntry a v).outcome = s.transportAnswer a v := rfl

end Sys2Proof.Machine
end

