-- ==== Sys2Proof/Laws/Memory.lean ====
section
/-! SUPPORT. The device shadow: read after write, and that every operation keeps the canonical form. -/

namespace Sys2Proof.Machine

/-- Reading an address just made Known gives the value. -/
theorem read_setKnown_same (m : Memory) (a : Nat) (v : Byte) : (m.setKnown a v).read a = some v := by
  induction m with
  | nil => simp [Memory.setKnown, Memory.read]
  | cons c m ih =>
    obtain ⟨b, w⟩ := c
    unfold Memory.setKnown
    split
    · simp [Memory.read]
    · split
      · simp [Memory.read]
      · next h => simpa [Memory.read, Ne.symm h] using ih

/-- Making an address Known leaves every other address. -/
theorem read_setKnown_other (m : Memory) {a x : Nat} (v : Byte) (h : x ≠ a) : (m.setKnown a v).read x = m.read x := by
  induction m with
  | nil => simp [Memory.setKnown, Memory.read, Ne.symm h]
  | cons c m ih =>
    obtain ⟨b, w⟩ := c
    unfold Memory.setKnown
    split
    · simp [Memory.read, Ne.symm h]
    · split
      · next hb => subst hb; simp [Memory.read, Ne.symm h]
      · simp only [Memory.read, ih]

/-- Reading an address just made Unknown gives Unknown. -/
theorem read_setUnknown_same (m : Memory) (a : Nat) : (m.setUnknown a).read a = none := by
  induction m with
  | nil => rfl
  | cons c m ih =>
    obtain ⟨b, w⟩ := c
    by_cases h : b = a
    · simpa [Memory.setUnknown, h] using ih
    · simpa [Memory.setUnknown, h, Memory.read] using ih

/-- Making an address Unknown leaves every other address. -/
theorem read_setUnknown_other (m : Memory) {a x : Nat} (h : x ≠ a) : (m.setUnknown a).read x = m.read x := by
  induction m with
  | nil => rfl
  | cons c m ih =>
    obtain ⟨b, w⟩ := c
    simp only [Memory.setUnknown, ne_eq, decide_not] at ih ⊢
    by_cases hb : b = a
    · have hx : b ≠ x := fun e => h (e.symm.trans hb)
      simpa [hb, Memory.read, hb ▸ hx] using ih
    · simp [hb, Memory.read, ih]

/-- One answered write leaves every address but its own. -/
theorem read_applyWrite_other (m : Memory) (e : LogEntry) {x : Nat} (h : x ≠ e.addr.toNat) :
    (m.applyWrite e).read x = m.read x := by
  unfold Memory.applyWrite
  split
  · exact read_setKnown_other m _ h
  · exact read_setUnknown_other m h

/-- One answered write makes its own address Known on ok and Unknown on err. -/
theorem read_applyWrite_same (m : Memory) (e : LogEntry) :
    (m.applyWrite e).read e.addr.toNat = if e.outcome = .ok then some e.val else none := by
  cases he : e.outcome
  · simpa [Memory.applyWrite, he] using read_setKnown_same m e.addr.toNat e.val
  · simpa [Memory.applyWrite, he] using read_setUnknown_same m e.addr.toNat

/-- The cells of a shadow after an address is made Known. -/
theorem mem_setKnown {m : Memory} {a : Nat} {v : Byte} {c : Host.Cell} (h : c ∈ m.setKnown a v) :
    c = (a, v) ∨ c ∈ m := by
  induction m with
  | nil => simpa [Memory.setKnown] using h
  | cons d m ih =>
    obtain ⟨b, w⟩ := d
    unfold Memory.setKnown at h
    split at h
    · simpa using h
    · split at h
      · rcases List.mem_cons.mp h with h | h
        · exact .inl h
        · exact .inr (List.mem_cons_of_mem _ h)
      · rcases List.mem_cons.mp h with h | h
        · exact .inr (h ▸ List.mem_cons_self)
        · exact (ih h).imp id (List.mem_cons_of_mem _)

/-- Making an address Known keeps the canonical form. -/
theorem wf_setKnown {m : Memory} (h : m.wf) {a : Nat} (v : Byte) (ha : a < 256) : (m.setKnown a v).wf := by
  refine ⟨?_, fun c hc => ?_⟩
  · have hp := h.1
    clear h
    induction m with
    | nil => simp [Memory.setKnown]
    | cons d m ih =>
      obtain ⟨b, w⟩ := d
      obtain ⟨hd, hm⟩ := List.pairwise_cons.mp hp
      unfold Memory.setKnown
      split
      · next hab =>
        refine List.pairwise_cons.mpr ⟨fun c hc => ?_, hp⟩
        rcases List.mem_cons.mp hc with rfl | hc
        · exact hab
        · exact lt_trans hab (hd c hc)
      · split
        · next hab => subst hab; exact List.pairwise_cons.mpr ⟨hd, hm⟩
        · next h1 h2 =>
          refine List.pairwise_cons.mpr ⟨fun c hc => ?_, ih hm⟩
          rcases mem_setKnown hc with rfl | hc
          · change b < a; omega
          · exact hd c hc
  · rcases mem_setKnown hc with rfl | hc
    · exact ha
    · exact h.2 c hc

/-- Making an address Unknown keeps the canonical form. -/
theorem wf_setUnknown {m : Memory} (h : m.wf) (a : Nat) : (m.setUnknown a).wf :=
  ⟨h.1.filter _, fun c hc => h.2 c (List.mem_filter.mp hc).1⟩

/-- One answered write keeps the canonical form. -/
theorem wf_applyWrite {m : Memory} (h : m.wf) (e : LogEntry) : (m.applyWrite e).wf := by
  unfold Memory.applyWrite
  split
  · exact wf_setKnown h e.val e.addr.isLt
  · exact wf_setUnknown h _

/-- The shadow at reset is canonical. -/
theorem wf_reset : State.reset.dev.wf := by simp [State.reset, Memory.wf]

end Sys2Proof.Machine
end

