-- ==== Sys2Proof/Laws/Ops.lean ====
section
/-! SUPPORT. One lemma per shared operation that says everything it can do. -/

namespace Sys2Proof.Machine

/-- A write list ends in one of two ways: its first write is answered ok and the rest follows, or it fails and nothing follows. -/
theorem perform_cons (a v : Byte) (w : List Write) (s : State) :
    s.perform ((a, v) :: w) =
      if s.transportAnswer a v = .ok then (s.busWrite a v).perform w
      else (s.busWrite a v).finish .transportFailure .nothing := by
  cases h : s.transportAnswer a v <;> simp [State.perform, h]

/-- What performing a write list leaves alone. -/
theorem perform_keeps (w : List Write) (s : State) :
    SameCorr s (s.perform w) ∧ SameInputs s (s.perform w) ∧ (s.perform w).fault = s.fault := by
  induction w generalizing s with
  | nil => simp [State.perform, SameCorr, SameInputs]
  | cons x w ih =>
    obtain ⟨a, v⟩ := x
    rw [perform_cons]
    split
    · simpa [SameCorr, SameInputs] using ih (s.busWrite a v)
    · simp [SameCorr, SameInputs]

/-- Whatever holds of a state, is kept by each write at an address of the list and by putting a status on the port, holds after
the list was performed. -/
theorem perform_induction {P : State → Prop} (w : List Write) (s : State)
    (hw : ∀ t a v, (a, v) ∈ w → P t → P (t.busWrite a v)) (hf : ∀ t st, P t → P (t.finish st .nothing)) (h : P s) :
    P (s.perform w) := by
  induction w generalizing s with
  | nil => exact hf s .ok h
  | cons x w ih =>
    obtain ⟨a, v⟩ := x
    have h1 : P (s.busWrite a v) := hw s a v List.mem_cons_self h
    rw [perform_cons]
    split
    · exact ih _ (fun t a v hm => hw t a v (List.mem_cons_of_mem _ hm)) h1
    · exact hf _ _ h1

/-- Everything an early end can do: one of the two refusal statuses on the port, or a sticky fault; nothing else. -/
theorem endEarly_cases (e : Early) (s : State) :
    s.endEarly e = s.finish .invalidChannel .nothing ∨ s.endEarly e = s.finish .invalidDivider .nothing ∨
      ∃ c, e = .fault c ∧ s.endEarly e = s.raise c := by
  cases e with
  | invalidChannel => exact .inl rfl
  | invalidDivider => exact .inr (.inl rfl)
  | fault c => exact .inr (.inr ⟨c, rfl, rfl⟩)

/-- Everything a command that writes no device register can do. -/
theorem conclude_cases (r : Except Early Output) (s : State) :
    (∃ out, r = .ok out ∧ s.conclude r = s.finish .ok out) ∨ (∃ e, r = .error e ∧ s.conclude r = s.endEarly e) := by
  cases r with
  | ok out => exact .inl ⟨out, rfl, rfl⟩
  | error e => exact .inr ⟨e, rfl, rfl⟩

/-- Everything a command that writes the device can do. -/
theorem deliver_cases (r : Except Early (List Write)) (s : State) :
    (∃ w, r = .ok w ∧ s.deliver r = s.perform w) ∨ (∃ e, r = .error e ∧ s.deliver r = s.endEarly e) := by
  cases r with
  | ok w => exact .inl ⟨w, rfl, rfl⟩
  | error e => exact .inr ⟨e, rfl, rfl⟩

/-- Raising a fault is R172's effect. -/
theorem raise_onlyFault (c : FaultCode) (s : State) : OnlyFault c s (s.raise c) := by
  simp [OnlyFault, SameCorr, SameDevice, SameInputs]

/-- Everything command entry can find. -/
theorem entry_cases (s : State) :
    (s.frames = [] ∧ s.entry = .idle) ∨
    (∃ fr rest i, s.frames = fr :: rest ∧ decode fr = .ok i ∧ s.entry = .command i (s.takeFrame rest)) ∨
    (∃ fr rest e, s.frames = fr :: rest ∧ decode fr = .error e ∧
      s.entry = .illegal ((s.takeFrame rest).raise .illegalCommand)) := by
  cases hf : s.frames with
  | nil => simp [State.entry, hf]
  | cons fr rest =>
    cases hd : decode fr with
    | ok i => exact .inr (.inl ⟨fr, rest, i, rfl, hd, by simp [State.entry, hf, hd]⟩)
    | error e => exact .inr (.inr ⟨fr, rest, e, rfl, hd, by simp [State.entry, hf, hd]⟩)

/-- Everything a step that answers a next state can have done. -/
theorem step_cases {s t : State} (h : step s = .next t) :
    s.fault = none ∧
      (t = s ∨ (∃ rest i, exec i (s.takeFrame rest) = .next t) ∨
        (∃ rest, t = (s.takeFrame rest).raise .illegalCommand)) := by
  unfold step at h
  split at h
  · cases h
  · next hf =>
    refine ⟨hf, ?_⟩
    rcases entry_cases s with ⟨-, he⟩ | ⟨fr, rest, i, -, -, he⟩ | ⟨fr, rest, e, -, -, he⟩ <;> rw [he] at h
    · cases h; exact .inl rfl
    · exact .inr (.inl ⟨rest, i, h⟩)
    · cases h; exact .inr (.inr ⟨rest, rfl⟩)

/-- Everything a command can do: latch the correction (SETCORR alone, and only once), end with an output (where its write list is
empty), end early, or perform its write list. -/
theorem exec_cases (i : Instr) (s : State) :
    (∃ c, i = .setcorr c ∧ s.corrValid = false ∧ exec i s = .next ((s.latchCorr c).finish .ok .nothing)) ∨
    (∃ out, commandWrites i s = .ok [] ∧ exec i s = .next (s.finish .ok out)) ∨
    (∃ e, exec i s = .next (s.endEarly e)) ∨
    (∃ w, commandWrites i s = .ok w ∧ exec i s = .next (s.perform w)) := by
  have hc (r : Except Early Output) : (∃ out, s.conclude r = s.finish .ok out) ∨ (∃ e, s.conclude r = s.endEarly e) :=
    (conclude_cases r s).imp (fun ⟨o, _, h⟩ => ⟨o, h⟩) (fun ⟨e, _, h⟩ => ⟨e, h⟩)
  have hd (r : Except Early (List Write)) : (∃ e, s.deliver r = s.endEarly e) ∨ (∃ w, r = .ok w ∧ s.deliver r = s.perform w) :=
    (deliver_cases r s).symm.imp (fun ⟨e, _, h⟩ => ⟨e, h⟩) id
  cases i with
  | setcorr c =>
    simp only [exec, execSetcorr]
    split
    · exact .inr (.inr (.inl ⟨.fault .alreadyInitialized, rfl⟩))
    · next h => exact .inl ⟨c, rfl, by simpa using h, rfl⟩
  | plan f =>
    refine .inr ?_
    rcases hc (planResult s.corrValid (planBody s.corrInt f.toNat)) with ⟨o, h⟩ | ⟨e, h⟩
    · exact .inl ⟨o, rfl, by rw [exec, execPlan, h]⟩
    · exact .inr (.inl ⟨e, by rw [exec, execPlan, h]⟩)
  | planiq f =>
    refine .inr ?_
    rcases hc (planResult s.corrValid (planIqBody s.corrInt f.toNat)) with ⟨o, h⟩ | ⟨e, h⟩
    · exact .inl ⟨o, rfl, by rw [exec, execPlaniq, h]⟩
    · exact .inr (.inl ⟨e, by rw [exec, execPlaniq, h]⟩)
  | pcalc i n d ms =>
    refine .inr ?_
    rcases hc (pcalcResult i.toNat n.toNat d.toNat ms) with ⟨o, h⟩ | ⟨e, h⟩
    · exact .inl ⟨o, rfl, by rw [exec, execPcalc, h]⟩
    · exact .inr (.inl ⟨e, by rw [exec, execPcalc, h]⟩)
  | encode p1 p2 p3 d4 rdiv =>
    refine .inr ?_
    rcases hc (encodeResult p1 p2 p3 d4 rdiv) with ⟨o, h⟩ | ⟨e, h⟩
    · exact .inl ⟨o, rfl, by rw [exec, execEncode, h]⟩
    · exact .inr (.inl ⟨e, by rw [exec, execEncode, h]⟩)
  | cfgch ch pll drive inv div y z rdiv ai phase =>
    refine .inr (.inr ?_)
    rcases hd (cfgchWrites s.platform ch pll drive inv ⟨div.toNat, y.toNat, z.toNat, rdiv, ai⟩ phase) with ⟨e, h⟩ | ⟨w, hw, h⟩
    · exact .inl ⟨e, by rw [exec, execCfgch, h]⟩
    · exact .inr ⟨w, hw, by rw [exec, execCfgch, h]⟩
  | cfgpll pll mult num denom =>
    refine .inr (.inr ?_)
    rcases hd (cfgpllWrites s.platform pll ⟨mult.toNat, num.toNat, denom.toNat⟩) with ⟨e, h⟩ | ⟨w, hw, h⟩
    · exact .inl ⟨e, by rw [exec, execCfgpll, h]⟩
    · exact .inr ⟨w, hw, by rw [exec, execCfgpll, h]⟩
  | setoe mask => exact .inr (.inr (.inr ⟨_, rfl, rfl⟩))
  | setup ch f drive =>
    refine .inr (.inr ?_)
    rcases hd (setupWrites s.platform s.corrValid s.corrInt ch f.toNat drive) with ⟨e, h⟩ | ⟨w, hw, h⟩
    · exact .inl ⟨e, by rw [exec, execSetup, h]⟩
    · exact .inr ⟨w, hw, by rw [exec, execSetup, h]⟩

end Sys2Proof.Machine
end

