-- ==== Sys2Proof/Laws/PerInstr.lean ====
section
/-! SUPPORT. Per-command laws of the syntax. Family EncodedFrame: the encoder of each command writes a well-formed frame of the
opcode's length (spec/30_encoding.md rules R60 to R62). -/

namespace Sys2Proof.Laws.EncodedFrame

/-- The encoder's frame for `i` is well formed by the operand table, and has the length of its opcode. -/
def Statement (i : Instr) : Prop :=
  frameWellFormed (encode i) = true ∧ frameBytes (opcode i) = some (encode i).length

theorem bigEndian_bytesOf (w : Word) : bigEndian (bytesOf w) < 2 ^ 32 := by
  simp only [bigEndian, bytesOf, List.foldl]
  have h0 := (w.extractLsb' 24 8).isLt
  have h1 := (w.extractLsb' 16 8).isLt
  have h2 := (w.extractLsb' 8 8).isLt
  have h3 := (w.extractLsb' 0 8).isLt
  omega

/-- A 32-bit operand's bytes fit, and the rest is checked after them. -/
theorem operandsFit_word (ws : List Nat) (w : Word) (bs : List Byte) :
    operandsFit (32 :: ws) (bytesOf w ++ bs) = operandsFit ws bs := by
  have h := bigEndian_bytesOf w
  have ht : (bytesOf w ++ bs).take 4 = bytesOf w := rfl
  have hd : (bytesOf w ++ bs).drop 4 = bs := rfl
  have hl : 4 ≤ (bytesOf w ++ bs).length := by simp [bytesOf]
  simp only [operandsFit, operandBytes, Nat.reduceAdd, Nat.reduceDiv, ht, hd]
  simp only [hl, h, decide_true, Bool.true_and]

/-- A one-byte operand that fits its width, and the rest checked after it. -/
theorem operandsFit_byte {k : Nat} (ws : List Nat) (b : Byte) (bs : List Byte) (h0 : 0 < k) (h8 : k ≤ 8)
    (hb : b.toNat < 2 ^ k) : operandsFit (k :: ws) (b :: bs) = operandsFit ws bs := by
  have hk : (k + 7) / 8 = 1 := by omega
  simp [operandsFit, operandBytes, hk, bigEndian, hb]

theorem flagByte_lt (b : Bool) : (flagByte b).toNat < 2 ^ 1 := by cases b <;> decide

theorem pllByte_lt (p : Pll) : (pllByte p).toNat < 2 ^ 1 := by cases p <;> decide

theorem narrow2_lt (x : BitVec 2) : (x.setWidth 8).toNat < 2 ^ 2 := by
  have := x.isLt; simp; omega

theorem narrow3_lt (x : BitVec 3) : (x.setWidth 8).toNat < 2 ^ 3 := by
  have := x.isLt; simp; omega

theorem byte_lt (x : Byte) : x.toNat < 2 ^ 8 := x.isLt

theorem setcorr (corr : Word) : Statement (.setcorr corr) :=
  ⟨operandsFit_word [] corr [], rfl⟩

theorem plan (f : Word) : Statement (.plan f) := ⟨operandsFit_word [] f [], rfl⟩

theorem planiq (f : Word) : Statement (.planiq f) := ⟨operandsFit_word [] f [], rfl⟩

theorem pcalc (i n d : Word) (ms : Bool) : Statement (.pcalc i n d ms) := by
  refine ⟨?_, rfl⟩
  change operandsFit [32, 32, 32, 1] (bytesOf i ++ (bytesOf n ++ (bytesOf d ++ [flagByte ms]))) = true
  rw [operandsFit_word, operandsFit_word, operandsFit_word,
    operandsFit_byte [] _ [] (by decide) (by decide) (flagByte_lt ms)]
  rfl

theorem encode (p1 p2 p3 : Word) (d4 : BitVec 2) (rdiv : BitVec 3) : Statement (.encode p1 p2 p3 d4 rdiv) := by
  refine ⟨?_, rfl⟩
  change operandsFit [32, 32, 32, 2, 3]
    (bytesOf p1 ++ (bytesOf p2 ++ (bytesOf p3 ++ [d4.setWidth 8, rdiv.setWidth 8]))) = true
  rw [operandsFit_word, operandsFit_word, operandsFit_word,
    operandsFit_byte _ _ _ (by decide) (by decide) (narrow2_lt d4),
    operandsFit_byte [] _ [] (by decide) (by decide) (narrow3_lt rdiv)]
  rfl

theorem cfgch (ch : Byte) (pll : Pll) (drive : BitVec 2) (inv : Bool) (div y z : Word) (rdiv : BitVec 3) (ai : Bool)
    (phase : Byte) : Statement (.cfgch ch pll drive inv div y z rdiv ai phase) := by
  refine ⟨?_, rfl⟩
  change operandsFit [8, 1, 2, 1, 32, 32, 32, 3, 1, 8]
    (ch :: pllByte pll :: drive.setWidth 8 :: flagByte inv :: (bytesOf div ++ (bytesOf y ++ (bytesOf z
      ++ [rdiv.setWidth 8, flagByte ai, phase])))) = true
  rw [operandsFit_byte _ _ _ (by decide) (by decide) (byte_lt ch),
    operandsFit_byte _ _ _ (by decide) (by decide) (pllByte_lt pll),
    operandsFit_byte _ _ _ (by decide) (by decide) (narrow2_lt drive),
    operandsFit_byte _ _ _ (by decide) (by decide) (flagByte_lt inv),
    operandsFit_word, operandsFit_word, operandsFit_word,
    operandsFit_byte _ _ _ (by decide) (by decide) (narrow3_lt rdiv),
    operandsFit_byte _ _ _ (by decide) (by decide) (flagByte_lt ai),
    operandsFit_byte [] _ [] (by decide) (by decide) (byte_lt phase)]
  rfl

theorem cfgpll (pll : Pll) (mult num denom : Word) : Statement (.cfgpll pll mult num denom) := by
  refine ⟨?_, rfl⟩
  change operandsFit [1, 32, 32, 32] (pllByte pll :: (bytesOf mult ++ (bytesOf num ++ (bytesOf denom ++ [])))) = true
  rw [operandsFit_byte _ _ _ (by decide) (by decide) (pllByte_lt pll), operandsFit_word, operandsFit_word,
    operandsFit_word]
  rfl

theorem setoe (mask : Byte) : Statement (.setoe mask) := by
  refine ⟨?_, rfl⟩
  change operandsFit [8] [mask] = true
  rw [operandsFit_byte [] _ [] (by decide) (by decide) (byte_lt mask)]
  rfl

theorem setup (ch : Byte) (f : Word) (drive : BitVec 2) : Statement (.setup ch f drive) := by
  refine ⟨?_, rfl⟩
  change operandsFit [8, 32, 2] (ch :: (bytesOf f ++ [drive.setWidth 8])) = true
  rw [operandsFit_byte _ _ _ (by decide) (by decide) (byte_lt ch), operandsFit_word,
    operandsFit_byte [] _ [] (by decide) (by decide) (narrow2_lt drive)]
  rfl

end Sys2Proof.Laws.EncodedFrame
end

