-- ==== Sys2Proof/Machine/Assembler.lean ====
section
/-! DEFINITION. The assembly language of spec/30_encoding.md rule R65, one command per line: from a line's characters to a command.
It is a tool beside the machine; `step` does not use it. -/

namespace Sys2Proof.Machine

/-- The tokens of a line. -/
inductive AsmToken where
  | word (cs : List Char)
  | comma
  | lparen
  | rparen
  | equals
deriving DecidableEq, Repr

/-- What a line is. -/
inductive AsmLine where
  /-- Nothing but blanks and a comment. -/
  | blank
  /-- A command. -/
  | command (i : Instr)
  /-- A line the assembler refuses: no command's form, or an operand that does not fit its width. -/
  | refused
deriving DecidableEq, Repr

/-- Put the word read so far, held in reverse, before the tokens after it. -/
def asmFlush (w : List Char) (ts : List AsmToken) : List AsmToken :=
  if w.isEmpty then ts else .word w.reverse :: ts

/-- The tokens of a line; `;` starts a comment. `w` is the word being read, in reverse. -/
def asmTokens : List Char → List Char → List AsmToken
  | [], w => asmFlush w []
  | c :: cs, w =>
    if c = ';' then asmFlush w []
    else if c = ' ' ∨ c = '\t' ∨ c = '\r' then asmFlush w (asmTokens cs [])
    else if c = ',' then asmFlush w (.comma :: asmTokens cs [])
    else if c = '(' then asmFlush w (.lparen :: asmTokens cs [])
    else if c = ')' then asmFlush w (.rparen :: asmTokens cs [])
    else if c = '=' then asmFlush w (.equals :: asmTokens cs [])
    else asmTokens cs (c :: w)

/-- The value of a digit in bases up to 16. -/
def asmDigit (c : Char) : Option Nat :=
  let n := c.toNat
  if 48 ≤ n ∧ n ≤ 57 then some (n - 48)
  else if 65 ≤ n ∧ n ≤ 70 then some (n - 55)
  else if 97 ≤ n ∧ n ≤ 102 then some (n - 87)
  else none

/-- Digits of a base, with `_` separators after the first digit; `v` is the value so far, absent before the first digit. -/
def asmDigits (base : Nat) : List Char → Option Nat → Option Nat
  | [], v => v
  | c :: cs, v =>
    if c = '_' then
      match v with
      | some n => asmDigits base cs (some n)
      | none => none
    else
      match asmDigit c with
      | some d => if d < base then asmDigits base cs (some (v.getD 0 * base + d)) else none
      | none => none

/-- A number: decimal, `0x` hex or `0b` binary. -/
def asmNumber (cs : List Char) : Option Nat :=
  match cs with
  | '0' :: 'x' :: ds => asmDigits 16 ds none
  | '0' :: 'b' :: ds => asmDigits 2 ds none
  | ds => asmDigits 10 ds none

/-- An unsigned operand of width `w`; refused where it does not fit. -/
def asmUnsigned (w : Nat) (cs : List Char) : Option (BitVec w) :=
  (asmNumber cs).bind fun n => if n < 2 ^ w then some (BitVec.ofNat w n) else none

/-- The signed 32-bit operand of SETCORR; refused where it does not fit. -/
def asmSigned (cs : List Char) : Option Word :=
  match cs with
  | '-' :: ds => (asmNumber ds).bind fun n => if n ≤ 2 ^ 31 then some (BitVec.ofInt 32 (-(n : Int))) else none
  | ds => (asmNumber ds).bind fun n => if n < 2 ^ 31 then some (BitVec.ofNat 32 n) else none

/-- A one-bit operand. -/
def asmFlag (cs : List Char) : Option Bool := (asmUnsigned 1 cs).map (fun x => x == 1#1)

/-- A PLL operand: `A` is 0 and `B` is 1. -/
def asmPll (cs : List Char) : Option Pll :=
  match cs with
  | ['A'] => some .a
  | ['B'] => some .b
  | _ => none

/-- SETCORR's operand. -/
def asmSetcorr (ts : List AsmToken) : Option Instr :=
  match ts with
  | [.word c] => (asmSigned c).map Instr.setcorr
  | _ => none

/-- The operand of PLAN and of PLANIQ, for the command `mk` makes of it. -/
def asmFrequency (mk : Word → Instr) (ts : List AsmToken) : Option Instr :=
  match ts with
  | [.word f] => (asmUnsigned 32 f).map mk
  | _ => none

/-- PCALC's operands: `i, n, d, ms=<0|1>`. -/
def asmPcalc (ts : List AsmToken) : Option Instr :=
  match ts with
  | [.word i, .comma, .word n, .comma, .word d, .comma, .word ['m', 's'], .equals, .word ms] =>
    (asmUnsigned 32 i).bind fun i => (asmUnsigned 32 n).bind fun n => (asmUnsigned 32 d).bind fun d =>
      (asmFlag ms).map fun ms => .pcalc i n d ms
  | _ => none

/-- ENCODE's operands: `p1, p2, p3, d4, rdiv`. -/
def asmEncode (ts : List AsmToken) : Option Instr :=
  match ts with
  | [.word p, .comma, .word q, .comma, .word r, .comma, .word d4, .comma, .word rd] =>
    (asmUnsigned 32 p).bind fun p => (asmUnsigned 32 q).bind fun q => (asmUnsigned 32 r).bind fun r =>
      (asmUnsigned 2 d4).bind fun d4 => (asmUnsigned 3 rd).map fun rd => .encode p q r d4 rd
  | _ => none

/-- CFGCH's operands: `ch, <A|B>, drive, inv, (div, y, z, rdiv, ai), phase`. -/
def asmCfgch (ts : List AsmToken) : Option Instr :=
  match ts with
  | [.word ch, .comma, .word pll, .comma, .word dr, .comma, .word inv, .comma, .lparen, .word div, .comma, .word y, .comma,
      .word z, .comma, .word rd, .comma, .word ai, .rparen, .comma, .word ph] =>
    (asmUnsigned 8 ch).bind fun ch => (asmPll pll).bind fun pll => (asmUnsigned 2 dr).bind fun dr =>
      (asmFlag inv).bind fun inv => (asmUnsigned 32 div).bind fun div => (asmUnsigned 32 y).bind fun y =>
        (asmUnsigned 32 z).bind fun z => (asmUnsigned 3 rd).bind fun rd => (asmFlag ai).bind fun ai =>
          (asmUnsigned 8 ph).map fun ph => .cfgch ch pll dr inv div y z rd ai ph
  | _ => none

/-- CFGPLL's operands: `<A|B>, (mult, num, denom)`. -/
def asmCfgpll (ts : List AsmToken) : Option Instr :=
  match ts with
  | [.word pll, .comma, .lparen, .word m, .comma, .word n, .comma, .word d, .rparen] =>
    (asmPll pll).bind fun pll => (asmUnsigned 32 m).bind fun m => (asmUnsigned 32 n).bind fun n =>
      (asmUnsigned 32 d).map fun d => .cfgpll pll m n d
  | _ => none

/-- SETOE's operand. -/
def asmSetoe (ts : List AsmToken) : Option Instr :=
  match ts with
  | [.word mask] => (asmUnsigned 8 mask).map Instr.setoe
  | _ => none

/-- SETUP's operands: `ch, f, drive`. -/
def asmSetup (ts : List AsmToken) : Option Instr :=
  match ts with
  | [.word ch, .comma, .word f, .comma, .word dr] =>
    (asmUnsigned 8 ch).bind fun ch => (asmUnsigned 32 f).bind fun f => (asmUnsigned 2 dr).map fun dr => .setup ch f dr
  | _ => none

/-- A command by its mnemonic and operand tokens. There are no pseudo-instructions. -/
def asmCommand (m : List Char) (ts : List AsmToken) : Option Instr :=
  if m = ['S', 'E', 'T', 'C', 'O', 'R', 'R'] then asmSetcorr ts
  else if m = ['P', 'L', 'A', 'N'] then asmFrequency .plan ts
  else if m = ['P', 'L', 'A', 'N', 'I', 'Q'] then asmFrequency .planiq ts
  else if m = ['P', 'C', 'A', 'L', 'C'] then asmPcalc ts
  else if m = ['E', 'N', 'C', 'O', 'D', 'E'] then asmEncode ts
  else if m = ['C', 'F', 'G', 'C', 'H'] then asmCfgch ts
  else if m = ['C', 'F', 'G', 'P', 'L', 'L'] then asmCfgpll ts
  else if m = ['S', 'E', 'T', 'O', 'E'] then asmSetoe ts
  else if m = ['S', 'E', 'T', 'U', 'P'] then asmSetup ts
  else none

/-- One line of assembly (R65). -/
def assembleLine (line : List Char) : AsmLine :=
  match asmTokens line [] with
  | [] => .blank
  | .word m :: ts =>
    match asmCommand m ts with
    | some i => .command i
    | none => .refused
  | _ => .refused

end Sys2Proof.Machine
end

