-- ==== Sys2Proof/Tests/Slice0.lean ====
section
/-! SUPPORT. The model's own tests. Expected results are the spec's: the section or rule stands in each comment. -/

namespace Sys2Proof.Tests

open Sys2Proof Sys2Proof.Machine

/-! ## Helpers -/

/-- The reference platform's block after `SETCORR 0`, with forty ok answers to come. -/
def ready : State where
  corr := 0
  corrValid := true
  fault := none
  log := []
  dev := []
  result := none
  platform := .reference
  frames := []
  answers := List.replicate 40 .ok

/-- The reference platform's block before SETCORR. -/
def fresh : State := { ready with corrValid := false }

/-- A block whose correction drives every planned frequency to 0 or below. -/
def overcorrected : State := { ready with corr := 140000000 }

/-- `ready` on the reference platform with the integer-mode write at 22, value 0x40, switched on. -/
def withIntMode : State :=
  { ready with platform := ⟨{ referenceParams with pllIntOpt := true, pllA := ⟨26, 22, 0x40⟩ }, by decide⟩ }

def after (o : Host.Outcome State Fault Refusal) : Option State :=
  match o with
  | .next s => some s
  | _ => none

/-- The result port after an instruction, as its status and output. -/
def port (i : Instr) (s : State) : Option ResultPort := (after (exec i s)).bind State.result

/-- The log after an instruction, as address, value and "was ok". -/
def logged (i : Instr) (s : State) : Option (List (Nat × Nat × Bool)) :=
  (after (exec i s)).map fun t => t.log.map fun e => (e.addr.toNat, e.val.toNat, e.outcome == .ok)

def faultOf (i : Instr) (s : State) : Option (Option FaultCode) := (after (exec i s)).map State.fault

/-! ## Well-formed frames and platforms: an ill-formed term for each check -/

theorem test_frame_good : frameWellFormed [0x08, 0x05] = true := by decide
theorem test_frame_empty : frameWellFormed [] = false := by decide
theorem test_frame_opcode_zero : frameWellFormed [0x00] = false := by decide
theorem test_frame_opcode_0A : frameWellFormed [0x0A] = false := by decide
theorem test_frame_short : frameWellFormed [0x02, 0x00, 0x98, 0x96] = false := by decide
theorem test_frame_long : frameWellFormed [0x08, 0x05, 0x00] = false := by decide
theorem test_frame_drive_4 : frameWellFormed [0x09, 0x00, 0x01, 0xAB, 0x3F, 0x00, 0x04] = false := by decide
theorem test_frame_pll_2 : frameWellFormed [0x07, 0x02, 0, 0, 0, 0, 0, 0, 0, 0, 0, 0, 0, 0] = false := by decide
theorem test_frame_ms_2 : frameWellFormed [0x04, 0, 0, 0, 0x0A, 0, 0, 0, 0, 0, 0, 0, 1, 2] = false := by decide
theorem test_frame_d4_4 : frameWellFormed [0x05, 0, 0, 0, 0, 0, 0, 0, 0, 0, 0, 0, 0, 4, 0] = false := by decide
theorem test_frame_encode_rdiv_8 : frameWellFormed [0x05, 0, 0, 0, 0, 0, 0, 0, 0, 0, 0, 0, 0, 0, 8] = false := by decide
theorem test_frame_cfgch_pll_drive_inv :
    frameWellFormed [0x06, 0, 2, 3, 0, 0, 0, 0, 8, 0, 0, 0, 0, 0, 0, 0, 1, 0, 0, 0] = false ∧
    frameWellFormed [0x06, 0, 0, 4, 0, 0, 0, 0, 8, 0, 0, 0, 0, 0, 0, 0, 1, 0, 0, 0] = false ∧
    frameWellFormed [0x06, 0, 0, 0, 2, 0, 0, 0, 8, 0, 0, 0, 0, 0, 0, 0, 1, 0, 0, 0] = false := by decide
theorem test_frame_cfgch_rdiv_ai :
    frameWellFormed [0x06, 0, 0, 0, 0, 0, 0, 0, 8, 0, 0, 0, 0, 0, 0, 0, 1, 8, 0, 0] = false ∧
    frameWellFormed [0x06, 0, 0, 0, 0, 0, 0, 0, 8, 0, 0, 0, 0, 0, 0, 0, 1, 0, 2, 0] = false := by decide

theorem test_platform_reference : referenceParams.wellFormed = true := by decide
/-- R7: a channel image at 249 would pass address 255. -/
theorem test_platform_ms_base :
    { referenceParams with ch0 := ⟨16, 249, 165⟩ }.wellFormed = false ∧
    { referenceParams with ch1 := ⟨16, 249, 165⟩ }.wellFormed = false ∧
    { referenceParams with ch2 := ⟨16, 249, 165⟩ }.wellFormed = false := by decide
theorem test_platform_pll_base :
    { referenceParams with pllA := ⟨249, 0, 0⟩ }.wellFormed = false ∧
    { referenceParams with pllB := ⟨249, 0, 0⟩ }.wellFormed = false := by decide
/-- R70: a position outside the byte. -/
theorem test_layout_out_of_byte :
    CtrlLayout.disjoint ⟨8, 5, 4, 0, 0x0C⟩ = false ∧ CtrlLayout.disjoint ⟨6, 8, 4, 0, 0x0C⟩ = false ∧
    CtrlLayout.disjoint ⟨6, 5, 8, 0, 0x0C⟩ = false ∧ CtrlLayout.disjoint ⟨6, 5, 4, 7, 0x0C⟩ = false := by decide
/-- R70: two fields that overlap, each pair. -/
theorem test_layout_overlap :
    CtrlLayout.disjoint ⟨5, 5, 4, 0, 0x0C⟩ = false ∧ CtrlLayout.disjoint ⟨4, 5, 4, 0, 0x0C⟩ = false ∧
    CtrlLayout.disjoint ⟨1, 5, 4, 0, 0x0C⟩ = false ∧ CtrlLayout.disjoint ⟨6, 4, 4, 0, 0x0C⟩ = false ∧
    CtrlLayout.disjoint ⟨6, 0, 4, 0, 0x0C⟩ = false ∧ CtrlLayout.disjoint ⟨6, 5, 1, 0, 0x0C⟩ = false := by decide
/-- R70: a field that overlaps CTRL_CONST. -/
theorem test_layout_const :
    CtrlLayout.disjoint ⟨6, 5, 4, 0, 0x4C⟩ = false ∧ CtrlLayout.disjoint ⟨6, 5, 4, 2, 0x0C⟩ = false := by decide
theorem test_configure_refuses :
    Platform.configure { referenceParams with ch0 := ⟨16, 249, 165⟩ } = none := by decide
theorem test_configure_accepts : Platform.configure referenceParams = some .reference := by decide

/-! ## Decoding: a frame of each command, written out byte by byte from R60 to R62 (frames of 95_test_vectors) -/

/-- Section 2.1. -/
theorem test_decode_setcorr : decode [0x01, 0x00, 0x00, 0x03, 0xCA] = .ok (.setcorr 970) := by decide
/-- Program P4. -/
theorem test_decode_plan : decode [0x02, 0x01, 0xAB, 0x3F, 0x00] = .ok (.plan 28000000) := by decide
/-- Program P2. -/
theorem test_decode_planiq : decode [0x03, 0x00, 0x98, 0x96, 0x80] = .ok (.planiq 10000000) := by decide
/-- Section 2.4. -/
theorem test_decode_pcalc :
    decode [0x04, 0x00, 0x00, 0x00, 0x22, 0x00, 0x08, 0xE6, 0xA5, 0x00, 0x0F, 0xE5, 0x02, 0x00]
      = .ok (.pcalc 34 583333 1041666 false) := by decide
/-- Section 2.5. -/
theorem test_decode_encode :
    decode [0x05, 0x00, 0x03, 0xFF, 0xFF, 0x00, 0x0F, 0xFF, 0xFF, 0x00, 0x0F, 0xFF, 0xFF, 0x03, 0x07]
      = .ok (.encode 262143 1048575 1048575 3 7) := by decide
/-- Program P3. -/
theorem test_decode_cfgch :
    decode [0x06, 0x03, 0x00, 0x03, 0x00, 0x00, 0x00, 0x00, 0x20, 0x00, 0x02, 0x42, 0xB4, 0x00, 0x0F, 0xD2, 0xED, 0x00,
      0x01, 0x00] = .ok (.cfgch 3 .a 3 false 32 148148 1037037 0 true 0) := by decide
/-- Section 2.7. -/
theorem test_decode_cfgpll :
    decode [0x07, 0x00, 0x00, 0x00, 0x00, 0x24, 0x00, 0x00, 0x00, 0x00, 0x00, 0x0F, 0xE5, 0x02]
      = .ok (.cfgpll .a 36 0 1041666) := by decide
/-- R174. -/
theorem test_decode_setoe : decode [0x08, 0xFF] = .ok (.setoe 0xFF) := by decide
/-- Section 2.9. -/
theorem test_decode_setup : decode [0x09, 0x02, 0x08, 0xF0, 0xD1, 0x80, 0x00] = .ok (.setup 2 150000000 0) := by decide
/-- R174's rejections, by name. -/
theorem test_decode_rejects :
    decode [] = .error .empty ∧ decode [0x00] = .error (.reservedOpcode 0x00) ∧
    decode [0xFF, 0x00, 0x00] = .error (.reservedOpcode 0xFF) ∧
    decode [0x02, 0x00, 0x98, 0x96] = .error (.wrongLength 0x02) ∧
    decode [0x09, 0x00, 0x01, 0xAB, 0x3F, 0x00, 0x04] = .error (.unusedBits 0x09) := by decide
/-- The table's numbering: byte 0 in the low bits, zeros above the given bits. -/
theorem test_decode_table_word :
    decodeTableWord 16 0x0508 = some (.setoe 5) ∧ decodeTableWord 8 0x09 = some (.setup 0 0 0) ∧
    decodeTableWord 8 0x0A = none := by decide

/-! ## The commands (95_test_vectors part 2) -/

/-- Section 2.1: SETCORR -15. -/
theorem test_setcorr_latches :
    (after (exec (.setcorr 0xFFFFFFF1) fresh)).map (fun t => (t.corrInt, t.corrValid)) = some (-15, true) := by decide
/-- Section 2.1: a second SETCORR. -/
theorem test_setcorr_twice :
    (after (exec (.setcorr 5) ready)).map (fun t => (faultNumber t.fault, t.corr)) = some (4, 0) := by decide
/-- Section 2.2: the largest Case A error. -/
theorem test_plan_caseA :
    port (.plan 80999969) ready = some ⟨.ok, .configs ⟨36, 0, 1⟩ ⟨11, 115388, 1038461, 0, true⟩⟩ := by decide
/-- Section 2.2: 81_249_998, a Case B result with num = denom. -/
theorem test_plan_caseB :
    port (.plan 81249998) ready = some ⟨.ok, .configs ⟨25, 1041666, 1041666⟩ ⟨8, 0, 1, 0, true⟩⟩ := by decide
/-- Section 2.3. -/
theorem test_planiq_denominator :
    port (.planiq 2559055) ready = some ⟨.ok, .configs ⟨12, 1041666, 1041666⟩ ⟨127, 0, 1, 0, false⟩⟩ := by decide
/-- Section 2.3: CORR = −970. -/
theorem test_planiq_corrected :
    port (.planiq 100000000) { ready with corr := BitVec.ofInt 32 (-970) }
      = some ⟨.ok, .configs ⟨32, 323, 1041666⟩ ⟨8, 0, 1, 0, false⟩⟩ := by decide
/-- R100 (c): the correction truncates toward zero. -/
theorem test_correct_truncates : correct 10000000 (-1) = 10000000 ∧ correct 10000000 (-15) = 10000001 := by decide
/-- Section 2.4: the largest P1. -/
theorem test_pcalc_largest :
    port (.pcalc 2051 127 128 true) ready = some ⟨.ok, .params ⟨262143, 0, 128⟩⟩ := by decide
/-- Section 2.4: P1 = −128. -/
theorem test_pcalc_negative : faultOf (.pcalc 3 0 1 false) ready = some (some .paramRange) := by decide
/-- Section 2.5. -/
theorem test_encode_image :
    port (.encode 0x12345 0x6789A 0xBCDEF 1 5) ready
      = some ⟨.ok, .image ⟨0xCD, 0xEF, 0x55, 0x23, 0x45, 0xB6, 0x78, 0x9A⟩⟩ := by decide
/-- Section 2.5: P1 of 2^18. -/
theorem test_encode_wide : faultOf (.encode 262144 0 1 0 0) ready = some (some .paramRange) := by decide
/-- Section 2.5, the round trip. -/
theorem test_unimg8 :
    unimg8 ⟨0xCD, 0xEF, 0x55, 0x23, 0x45, 0xB6, 0x78, 0x9A⟩ = (⟨0x12345, 0x6789A, 0xBCDEF⟩, 1, 5) := by decide
/-- Section 2.6, second row. -/
theorem test_cfgch_writes :
    logged (.cfgch 2 .b 1 true 90 0 1 0 true 200) ready = some [(18, 0x7D, true), (58, 0x00, true), (59, 0x01, true),
      (60, 0x00, true), (61, 0x2B, true), (62, 0x00, true), (63, 0x00, true), (64, 0x00, true), (65, 0x00, true),
      (167, 0x48, true)] := by decide
/-- Section 2.6, last row: the third write fails. -/
theorem test_cfgch_failure :
    logged (.cfgch 0 .a 3 false 32 148148 1037037 0 true 0) { ready with answers := [.ok, .ok, .err] }
      = some [(16, 0x0F, true), (42, 0xD2, true), (43, 0xED, false)] := by decide
/-- Section 2.7: PLL_INT_OPT on. -/
theorem test_cfgpll_int :
    logged (.cfgpll .a 36 0 1) withIntMode = some [(26, 0x00, true), (27, 0x01, true), (28, 0x00, true), (29, 0x10, true),
      (30, 0x00, true), (31, 0x00, true), (32, 0x00, true), (33, 0x00, true), (22, 0x40, true), (177, 0xA0, true)] := by
  decide
/-- Section 2.7: mult 3 with num = denom. -/
theorem test_cfgpll_three :
    logged (.cfgpll .b 3 1 1) ready = some [(34, 0x00, true), (35, 0x01, true), (36, 0x00, true), (37, 0x00, true),
      (38, 0x00, true), (39, 0x00, true), (40, 0x00, true), (41, 0x00, true), (177, 0xA0, true)] := by decide
/-- Section 2.8: the source's own example. -/
theorem test_setoe : logged (.setoe 0b101) ready = some [(3, 0xFA, true)] := by decide
/-- Section 2.8: an err makes DEV[3] Unknown and the status 3. -/
theorem test_setoe_err :
    (after (exec (.setoe 3) { ready with answers := [.err], dev := [(3, 0xFF)] })).map
      (fun t => (t.dev.read 3, t.result.map (fun r => r.status.code))) = some (none, some 3) := by decide
/-- Section 2.9, second row. -/
theorem test_setup_writes :
    logged (.setup 2 150000000 0) ready = some [(34, 0xE5, true), (35, 0x02, true), (36, 0x00, true), (37, 0x0A, true),
      (38, 0x00, true), (39, 0xF0, true), (40, 0x00, true), (41, 0x00, true), (177, 0xA0, true), (18, 0x6C, true),
      (58, 0x00, true), (59, 0x01, true), (60, 0x0C, true), (61, 0x00, true), (62, 0x00, true), (63, 0x00, true),
      (64, 0x00, true), (65, 0x00, true), (167, 0x00, true)] := by decide
/-- Section 2.9, last row: the initialisation check comes first. -/
theorem test_setup_before_setcorr : faultOf (.setup 1 28000000 3) fresh = some (some .notInitialized) := by decide
/-- R175: InvalidDivider takes priority over ParamRange. -/
theorem test_cfgch_priority :
    port (.cfgch 0 .a 0 false 5 0 0 0 true 0) ready = some ⟨.invalidDivider, .nothing⟩ := by decide

/-! ## Command entry -/

/-- Section 2.10: `08 05` with FAULT = 3. -/
theorem test_step_stuck :
    step { ready with fault := some .notInitialized, frames := [[0x08, 0x05]] } = .fault (.stuck .notInitialized) := rfl
/-- Section 2.10: `0A`. -/
theorem test_step_illegal :
    (after (step (ready.present [0x0A]))).map State.fault = some (some .illegalCommand) := by decide
/-- A table word runs as the very next step. -/
theorem test_step_fetches_word :
    (after (step (ready.withFetchWord 16 0x0508))).map (fun t => (t.log.length, t.dev.read 3, t.frames.length))
      = some (1, some 0xFA, 0) := by decide

/-! ## The test oracle (R104) and the assembler (R65) -/

/-- W2: 28 MHz reconstructs to +0.12 Hz; section 2.2: the maximum, 6.819995 Hz. -/
theorem test_recon :
    recon ⟨36, 0, 1⟩ ⟨32, 148148, 1037037, 0, true⟩ - 28000000 < 1 / 8 ∧
    6819995 / 1000000 - 1 / 1000000 < recon ⟨36, 0, 1⟩ ⟨11, 115388, 1038461, 0, true⟩ - 80999969 := by
  norm_num [recon, pllFrequency, show BitVec.toNat (0 : BitVec 3) = 0 from rfl]

/-- A line of program P3. -/
theorem test_assemble_cfgch :
    assembleLine "CFGCH   3, A, 3, 0, (32, 148148, 1037037, 0, 1), 0 ; 06 03".toList
      = .command (.cfgch 3 .a 3 false 32 148148 1037037 0 true 0) := by decide
/-- R65's number forms, and its refusal of an operand that does not fit. -/
theorem test_assemble_numbers :
    assembleLine "SETUP   0, 28_000_000, 3".toList = .command (.setup 0 28000000 3) ∧
    assembleLine "SETOE   0b101".toList = .command (.setoe 5) ∧
    assembleLine "SETCORR -15".toList = .command (.setcorr 0xFFFFFFF1) ∧
    assembleLine "PCALC 4, 5, 7, ms=1".toList = .command (.pcalc 4 5 7 true) ∧
    assembleLine "SETOE 0x100".toList = .refused ∧ assembleLine " ; nothing".toList = .blank := by decide

/-! ## Witnesses: a state and operands that meet each statement's hypotheses together -/

theorem test_witness_StepRunsDecodedCommand :
    (ready.present [0x08, 0x05]).fault = none ∧ (ready.present [0x08, 0x05]).frames = [0x08, 0x05] :: [] ∧
      decode [0x08, 0x05] = .ok (.setoe 5) := by decide
theorem test_witness_DecodeAcceptsExactlyEncodings : decode [0x08, 0x05] = .ok (.setoe 5) := by decide
theorem test_witness_MalformedFrame :
    (ready.present [0x08]).fault = none ∧ (ready.present [0x08]).frames = [0x08] :: [] ∧
      frameWellFormed [0x08] = false := by decide
theorem test_witness_FaultedBlock : { ready with fault := some .planDomain }.fault = some .planDomain := rfl
theorem test_witness_IdleBlock : ready.fault = none ∧ ready.frames = [] := ⟨rfl, rfl⟩
theorem test_witness_Setcorr : fresh.corrValid = false ∧ ready.corrValid = true := ⟨rfl, rfl⟩
theorem test_witness_CorrectionNeverChanges :
    ready.corrValid = true ∧ (after (step (ready.present [0x01, 0, 0, 0, 5]))).isSome = true := by decide
/-- Magnitudes at the sign boundary of the correction. -/
theorem test_witness_CorrectionShifts : (0 : Int) ≤ 0 ∧ (0 : Int) ≤ 1 ∧ (-1 : Int) ≤ 0 := by decide
theorem test_witness_Tdiv : (100 : Int) ≠ 0 := by decide
/-- The reduction at d = 1, at the last d with t = 1 and at the first with t = 2. -/
theorem test_witness_Reduction :
    (1 ≤ 1 ∧ 0 < 1) ∧ (1 ≤ 2 ^ 20 - 1 ∧ 2 ^ 20 - 2 < 2 ^ 20 - 1 ∧ 2 ^ 20 - 1 < 2 ^ 20) ∧ (1 ≤ 2 ^ 20 ∧ 0 < 2 ^ 20) := by decide
/-- PLAN at the edge of Case A and Case B, and prescaled: all hypotheses of PlanCompletes. -/
theorem test_witness_PlanCompletes :
    ready.corrValid = true ∧
    (80999999 = clamp (80999999 : Word).toNat 8000 160000000 ∧ correct 80999999 ready.corrInt = (80999999 : Nat)) ∧
    (81000000 = clamp (81000000 : Word).toNat 8000 160000000 ∧ correct 81000000 ready.corrInt = (81000000 : Nat)) ∧
    (8000 = clamp (5000 : Word).toNat 8000 160000000 ∧ correct (8000 * 64) ready.corrInt = (512000 : Nat)) := by decide
/-- PLANIQ at the ladder's edges: F and d meet the hypotheses of PlaniqCompletes. -/
theorem test_witness_PlaniqCompletes :
    ready.corrValid = true ∧ correct (clamp (4899999 : Word).toNat 1400000 100000000) ready.corrInt = (4899999 : Nat) ∧
    correct (clamp (4900000 : Word).toNat 1400000 100000000) ready.corrInt = (4900000 : Nat) ∧
    correct (clamp (8000000 : Word).toNat 1400000 100000000) ready.corrInt = (8000000 : Nat) ∧
    625000000 / 4900000 = 127 ∧ 900000000 / 8000000 = 112 := by decide
/-- R100 (i), R106 (e). -/
theorem test_witness_PlanDomain :
    overcorrected.corrValid = true ∧
    correct (prescale (clamp (1000000 : Word).toNat 8000 160000000)).1 overcorrected.corrInt ≤ 0 ∧
    correct (clamp (1400000 : Word).toNat 1400000 100000000) overcorrected.corrInt ≤ 0 ∧
    ((0 : Byte) = 0 ∨ (0 : Byte) = 2) := by decide
theorem test_witness_PlanningNeedsCorrection :
    fresh.corrValid = false ∧ Instr.setup 1 5 0 ∈ [Instr.plan 5, .planiq 5, .setup 1 5 0] := by decide
theorem test_witness_ClampIsSilent :
    (8000 : Word).toNat ≤ 8000 ∧ 160000000 ≤ (160000000 : Word).toNat ∧ (1400000 : Word).toNat ≤ 1400000 ∧
      100000000 ≤ (200000000 : Word).toNat := by decide
theorem test_witness_PlannedFractions :
    port (.plan 28000000) ready = some ⟨.ok, .configs ⟨36, 0, 1⟩ ⟨32, 148148, 1037037, 0, true⟩⟩ ∧
    port (.planiq 10000000) ready = some ⟨.ok, .configs ⟨36, 0, 1041666⟩ ⟨90, 0, 1, 0, false⟩⟩ := by decide
theorem test_witness_PlanShapes :
    port (.plan 100000000) ready = some ⟨.ok, .configs ⟨24, 0, 1041666⟩ ⟨6, 0, 1, 0, true⟩⟩ := by decide
/-- The divider range at its ends, and the first frequency above it. -/
theorem test_witness_QuadratureRange :
    (0 < 1 ∧ 1 ≤ 900000000) ∧ iqDiv 900000000 = 1 ∧ 900000000 < 900000001 ∧ iqDiv 900000001 = 0 := by decide
theorem test_witness_QuadraturePair :
    planIqBody 0 10000000 = .ok (⟨36, 0, 1041666⟩, ⟨90, 0, 1, 0, false⟩) := by decide
theorem test_witness_SixHertz :
    planBody 0 80999969 = .ok (⟨36, 0, 1⟩, ⟨11, 115388, 1038461, 0, true⟩) := by decide
theorem test_witness_PcalcCompletes :
    ¬(false = true ∧ (4 : Word).toNat = 4) ∧ 1 ≤ (1 : Word).toNat ∧ (1 : Word).toNat ≤ 2 ^ 20 - 1 ∧
      (0 : Word).toNat ≤ (1 : Word).toNat ∧ 512 ≤ 128 * (4 : Word).toNat + 128 * 0 / 1 ∧
      128 * (2051 : Word).toNat + 128 * 127 / 128 - 512 < 2 ^ 18 := by decide
/-- Each clause on a PLL multiplier of 4, at the ends of the fraction's range (R123, R126). -/
theorem test_witness_DivideByFour :
    (pPll ⟨4, 0, 1⟩).toOption = some (⟨0, 0, 1⟩, 0, 0) ∧
    (pPll ⟨4, 2 ^ 20 - 1, 2 ^ 20 - 1⟩).toOption = some (⟨128, 0, 1048575⟩, 0, 0) ∧
    pPll ⟨4, 0, 0⟩ = .error .paramRange ∧ pPll ⟨4, 0, 2 ^ 20⟩ = .error .paramRange ∧
    pPll ⟨4, 2, 1⟩ = .error .paramRange := by decide
/-- Multisynth dividers at the ends of their range: 2051 127/128 is the last that fits, 3 1/1 the first (R123). -/
theorem test_pvals_multisynth_ends :
    pvals 2051 1 1 true = .error .paramRange ∧ (pvals 2051 127 128 true).toOption = some ⟨262143, 0, 128⟩ ∧
    pvals 3 0 1 true = .error .paramRange ∧ (pvals 3 1 1 true).toOption = some ⟨0, 0, 1⟩ ∧
    pvals 2 1 1 true = .error .paramRange := by decide
theorem test_witness_PvaluesExact :
    (pvals 32 148148 1037037 true).toOption = some ⟨3602, 296278, 1037037⟩ ∧
    (pvals 4 5 7 true).toOption = some ⟨0, 0, 1⟩ := by decide
theorem test_witness_EncodeCompletes :
    (262143 : Word).toNat < 2 ^ 18 ∧ (1048575 : Word).toNat < 2 ^ 20 := by decide
/-- ParamRange in each of its five commands; SETUP at 10 MHz with CORR = 99_999_999 plans F = 1 and a divider too wide. -/
theorem test_witness_ParamRange :
    (pvals 2052 0 1 true).toOption = none ∧ 2 ^ 18 ≤ (262144 : Word).toNat ∧ 2 ^ 20 ≤ (1048576 : Word).toNat ∧
    legalDiv 8 8 false = true ∧ (pvals 8 8 7 true).toOption = none ∧ (pvals 2 0 1 false).toOption = none ∧
    (planBody 99999999 10000000).toOption = some (⟨36, 0, 1⟩, ⟨900000000, 0, 1, 0, true⟩) ∧
    (pvals 900000000 0 1 true).toOption = none := by decide
theorem test_witness_CfgchPerforms :
    (((0 : Byte) = 0 ∧ Channel.ch0 = .ch0) ∨ ((0 : Byte) = 1 ∧ Channel.ch0 = .ch1) ∨ ((0 : Byte) = 2 ∧ Channel.ch0 = .ch2)) ∧
    (((1 : Byte) = 0 ∧ Channel.ch1 = .ch0) ∨ ((1 : Byte) = 1 ∧ Channel.ch1 = .ch1) ∨ ((1 : Byte) = 2 ∧ Channel.ch1 = .ch2)) ∧
    (((2 : Byte) = 0 ∧ Channel.ch2 = .ch0) ∨ ((2 : Byte) = 1 ∧ Channel.ch2 = .ch1) ∨ ((2 : Byte) = 2 ∧ Channel.ch2 = .ch2)) ∧
    legalDiv 4 5 true = true ∧ legalDiv 8 3 false = true ∧
    (pvals 4 5 0 true).toOption = some ⟨0, 0, 1⟩ ∧ (pvals 8 3 7 true).toOption = some ⟨566, 6, 7⟩ := by decide
theorem test_witness_ChannelRefused :
    2 < (3 : Byte).toNat ∧ ready.corrValid = true ∧ (1 : Byte) ≠ 0 ∧ (1 : Byte) ≠ 2 := by decide
theorem test_witness_DividerRefused : (2 : Byte).toNat ≤ 2 ∧ legalDiv 7 0 true = false := by decide
theorem test_witness_CfgpllPerforms :
    (pvals 36 0 1 false).toOption = some ⟨4096, 0, 1⟩ ∧ withIntMode.platform.params.pllIntOpt = true := by decide
theorem test_witness_CfgpllEnds : port (.cfgpll .a 36 0 1) ready = some ⟨.ok, .nothing⟩ := by decide
theorem test_witness_Setoe :
    ready.transportAnswer ready.platform.params.oe (oeByte 5) = .ok ∧
    { ready with answers := [.err] }.transportAnswer ready.platform.params.oe (oeByte 5) = .err := by decide
theorem test_witness_SetupPerforms :
    ready.corrValid = true ∧
    (planBody ready.corrInt 28000000).toOption = some (⟨36, 0, 1⟩, ⟨32, 148148, 1037037, 0, true⟩) ∧
    (pvals 36 0 1 false).toOption = some ⟨4096, 0, 1⟩ ∧
    (pvals 32 148148 1037037 true).toOption = some ⟨3602, 296278, 1037037⟩ := by decide
theorem test_witness_SetupNeverInvalidDivider : (after (exec (.setup 0 28000000 3) ready)).isSome = true := by decide
theorem test_witness_AnswersOk : AnswersOk ready 40 := by
  unfold AnswersOk
  decide
theorem test_witness_ShowsImage :
    inImage (addrMs ready.platform .ch0) (addrPhase ready.platform .ch0) = false := by decide
theorem test_witness_OrderFree :
    (∀ x ∈ ([(26, 0), (177, 0xA0)] : List Write), ∀ y ∈ ([(16, 0x0F)] : List Write), x.1 ≠ y.1) ∧
      AnswersOk ready 3 := by
  refine ⟨by simp, ?_⟩
  unfold AnswersOk
  decide
theorem test_witness_FrameComputing :
    Instr.encode 1 2 3 0 0 ∈ [Instr.plan 5, .planiq 5, .pcalc 1 2 3 true, .encode 1 2 3 0 0] ∧
      (after (exec (.encode 1 2 3 0 0) ready)).isSome = true := by decide
theorem test_witness_FrameWriting :
    (after (exec (.cfgch 0 .a 0 false 8 0 1 0 false 0) ready)).isSome = true ∧
    (after (exec (.cfgpll .a 36 0 1) ready)).isSome = true ∧ (after (exec (.setoe 1) ready)).isSome = true ∧
    (after (exec (.setup 0 28000000 3) ready)).isSome = true := by decide
theorem test_witness_FaultingCommand :
    ready.fault = none ∧ faultOf (.pcalc 3 0 1 false) ready = some (some .paramRange) := by decide
theorem test_witness_Outcomes :
    ready.fault = none ∧ port (.setoe 1) ready = some ⟨.ok, .nothing⟩ ∧ faultOf (.setoe 1) ready = some none := by decide
theorem test_witness_RefusalStatuses :
    port (.setup 1 5 0) ready = some ⟨.invalidChannel, .nothing⟩ ∧
    port (.cfgch 0 .a 0 false 7 0 1 0 true 0) ready = some ⟨.invalidDivider, .nothing⟩ := by decide
theorem test_witness_TransportFailure :
    port (.setoe 3) { ready with answers := [.err] } = some ⟨.transportFailure, .nothing⟩ := by decide
theorem test_witness_OkWrites : port (.cfgpll .a 36 0 1) ready = some ⟨.ok, .nothing⟩ := by decide
theorem test_witness_StepNext : (after (step ready)).isSome = true := by decide
/-- The invariants hold of `ready`, and of a state with a write logged. -/
theorem test_witness_Invariants :
    ShadowIsReplay ready ∧ ready.dev.wf ∧ LogWithinPlatform ready ∧
    ShadowIsReplay { ready with log := [⟨3, 0xFA, .ok⟩], dev := [(3, 0xFA)] } ∧
    LogWithinPlatform { ready with log := [⟨3, 0xFA, .ok⟩], dev := [(3, 0xFA)] } := by
  refine ⟨rfl, by decide, ?_, rfl, ?_⟩ <;> unfold LogWithinPlatform <;> decide

end Sys2Proof.Tests
end

section
/-! SUPPORT. Proofs for spec/00_scope.md: the truncating division of R11, and what no step changes in the history and the
configuration (R7, R29, R48, R51). -/

namespace Sys2Proof.Machine

/-! ## Truncating division (R11) -/

@[simp] theorem tdiv_neg_left (n d : Int) : tdiv (-n) d = -tdiv n d := Int.neg_tdiv n d
@[simp] theorem tdiv_neg_right (n d : Int) : tdiv n (-d) = -tdiv n d := Int.tdiv_neg n d

/-- R11 on magnitudes: the sign factors are 1, or 0 where an operand, and with it the quotient, is 0. -/
theorem tdiv_natCast (a b : Nat) :
    tdiv a b = (a : Int).sign * (b : Int).sign * ((a / b : Nat) : Int) := by
  rcases eq_or_ne a 0 with rfl | ha
  · simp [tdiv]
  · rcases eq_or_ne b 0 with rfl | hb
    · simp [tdiv]
    · rw [Int.sign_natCast_of_ne_zero ha, Int.sign_natCast_of_ne_zero hb, one_mul, one_mul]
      rfl

/-- R11's formula, with no condition on `d`: each operand's sign factors out of both sides. -/
theorem tdiv_eq_sign_mul_floor (n d : Int) : tdiv n d = n.sign * d.sign * ((n.natAbs / d.natAbs : Nat) : Int) := by
  obtain ⟨a, rfl | rfl⟩ := n.eq_nat_or_neg <;> obtain ⟨b, rfl | rfl⟩ := d.eq_nat_or_neg <;>
    simp [tdiv_natCast]

/-- Settles O12: R11's formula, and the example evaluated. -/
theorem tdivRoundsTowardZero : Obligations.TdivRoundsTowardZero :=
  ⟨fun n d _ => tdiv_eq_sign_mul_floor n d, by decide⟩

/-! ## History and configuration (R7, R29, R48, R51) -/

/-- Ending early neither writes the log nor touches the inputs. -/
theorem endEarly_keeps (e : Early) (s : State) : (s.endEarly e).log = s.log ∧ SameInputs s (s.endEarly e) := by
  rcases endEarly_cases e s with h | h | ⟨c, -, h⟩ <;> simp [h, SameInputs]

/-- R29, R150: performing a write list only appends to the log. -/
theorem log_prefix_perform (w : List Write) (s : State) : s.log <+: (s.perform w).log := by
  refine perform_induction (P := fun t => s.log <+: t.log) w s (fun t a v _ h => ?_) (fun _ _ h => h) List.prefix_rfl
  rw [busWrite_log]
  exact h.trans (List.prefix_append _ _)

/-- A command only appends to the log, and leaves the configuration, the waiting frames and the transport's answers. -/
theorem log_prefix_and_sameInputs_of_exec {i : Instr} {s t : State} (h : exec i s = .next t) :
    s.log <+: t.log ∧ SameInputs s t := by
  rcases exec_cases i s with ⟨c, -, -, he⟩ | ⟨out, -, he⟩ | ⟨e, he⟩ | ⟨w, -, he⟩ <;>
    obtain rfl := Host.Outcome.next.inj (he.symm.trans h)
  · simp [SameInputs]
  · simp [SameInputs]
  · obtain ⟨hlog, hin⟩ := endEarly_keeps e s
    exact ⟨hlog ▸ List.prefix_rfl, hin⟩
  · obtain ⟨-, hin, -⟩ := perform_keeps w s
    exact ⟨log_prefix_perform w s, hin⟩

/-- Settles O56: a step waits, runs a command, or raises IllegalCommand, and only a command can extend `LOG`. -/
theorem stepKeepsHistoryAndConfiguration : Obligations.StepKeepsHistoryAndConfiguration := by
  intro s t h
  obtain ⟨-, rfl | ⟨rest, i, hexec⟩ | ⟨rest, rfl⟩⟩ := step_cases h
  · simp
  · obtain ⟨⟨more, hlog⟩, hplat, -, hans⟩ := log_prefix_and_sameInputs_of_exec hexec
    exact ⟨⟨more, hlog.symm⟩, hplat, hans⟩
  · simp

end Sys2Proof.Machine
end

section
/-! SUPPORT. Proofs for spec/10_state.md: reset (R33, R190), the correction once set (R21, R22, R198), and the shadow that follows
the log (R29, R30, R43). -/

namespace Sys2Proof.Machine

/-! ## Reset (R33, R190) -/

/-- An empty shadow is Unknown at every address. -/
@[simp] theorem read_nil (a : Nat) : Memory.read [] a = none := rfl

/-- Settles O9: every item of state has its reset value, and `State.restart` keeps the platform alone. -/
theorem resetClearsState : Obligations.ResetClearsState := by
  refine ⟨⟨rfl, rfl, rfl, rfl, read_nil⟩, ?_⟩
  rintro frs ans s _ rfl
  exact ⟨rfl, rfl, rfl, rfl, read_nil, rfl⟩

/-- Settles O60: each invariant speaks of an empty log or an empty shadow. -/
theorem invariantsHoldAtReset : Obligations.InvariantsHoldAtReset :=
  ⟨rfl, wf_reset, fun _ he => absurd he List.not_mem_nil⟩

/-! ## The correction (R21, R22, R198) -/

/-- Before SETCORR a planning command ends early, whatever its planner would answer (R22). -/
theorem planResult_uninitialized (body : Except FaultCode (PllConfig × OutputConfig)) :
    planResult false body = .error (.fault .notInitialized) := rfl

/-- Before SETCORR SETUP ends early, before its channel is looked at (R175). -/
theorem setupWrites_uninitialized (p : Platform) (corr : Int) (ch : Byte) (f : Nat) (drive : BitVec 2) :
    setupWrites p false corr ch f drive = .error (.fault .notInitialized) := rfl

/-- Settles O18: the initialisation check stands first in each of the three commands, and its failure is a raised fault. -/
theorem planningNeedsCorrection : Obligations.PlanningNeedsCorrection := by
  intro f ch drive s i hcv hi
  refine ⟨s.raise .notInitialized, ?_, raise_onlyFault _ s⟩
  simp only [List.mem_cons, List.not_mem_nil, or_false] at hi
  obtain rfl | rfl | rfl := hi
  · rw [exec, execPlan, hcv, planResult_uninitialized]; rfl
  · rw [exec, execPlaniq, hcv, planResult_uninitialized]; rfl
  · rw [exec, execSetup, hcv, setupWrites_uninitialized]; rfl

/-- Ending early leaves the correction. -/
theorem endEarly_sameCorr (e : Early) (s : State) : SameCorr s (s.endEarly e) := by
  rcases endEarly_cases e s with h | h | ⟨c, -, h⟩ <;> simp [h, SameCorr]

/-- R198: a command writes the correction only while none is set. -/
theorem sameCorr_of_exec {i : Instr} {s t : State} (hcv : s.corrValid = true) (h : exec i s = .next t) : SameCorr s t := by
  rcases exec_cases i s with ⟨c, -, hunset, -⟩ | ⟨out, -, he⟩ | ⟨e, he⟩ | ⟨w, -, he⟩
  · simp [hcv] at hunset
  all_goals obtain rfl := Host.Outcome.next.inj (he.symm.trans h)
  · exact ⟨rfl, rfl⟩
  · exact endEarly_sameCorr e s
  · exact (perform_keeps w s).1

/-- Settles O11: only a command could write the correction, and SETCORR raises a fault where one is set. -/
theorem correctionNeverChangesOnceSet : Obligations.CorrectionNeverChangesOnceSet := by
  intro s t hcv h
  obtain ⟨-, rfl | ⟨rest, i, hexec⟩ | ⟨rest, rfl⟩⟩ := step_cases h
  · exact ⟨hcv, rfl⟩
  · obtain ⟨hcorr, hvalid⟩ := sameCorr_of_exec (s := s.takeFrame rest) hcv hexec
    exact ⟨hvalid.trans hcv, hcorr⟩
  · exact ⟨hcv, rfl⟩

/-! ## The shadow follows the log (R29, R30, R43) -/

/-- `LOG` grew by some entries, and `DEV` changed by exactly what these entries do to it. -/
def DevFollowsLog (s t : State) : Prop :=
  ∃ more, t.log = s.log ++ more ∧ t.dev = more.foldl Memory.applyWrite s.dev

/-- What touches neither `LOG` nor `DEV` lets `DEV` follow `LOG`. -/
theorem devFollowsLog_of_same {s t : State} (hlog : t.log = s.log) (hdev : t.dev = s.dev) : DevFollowsLog s t :=
  ⟨[], by simpa using hlog, hdev⟩

/-- One bus write puts one entry into both. -/
theorem DevFollowsLog.busWrite {s t : State} (h : DevFollowsLog s t) (a v : Byte) : DevFollowsLog s (t.busWrite a v) := by
  obtain ⟨more, hlog, hdev⟩ := h
  exact ⟨more ++ [t.busEntry a v], by simp [hlog], by simp [hdev]⟩

/-- R150: performing a write list is a run of bus writes. -/
theorem devFollowsLog_perform (w : List Write) (s : State) : DevFollowsLog s (s.perform w) :=
  perform_induction w s (fun _ a v _ h => h.busWrite a v) (fun _ _ h => h) (devFollowsLog_of_same rfl rfl)

/-- Ending early leaves the shadow. -/
theorem endEarly_dev (e : Early) (s : State) : (s.endEarly e).dev = s.dev := by
  rcases endEarly_cases e s with h | h | ⟨c, -, h⟩ <;> simp [h]

/-- In every command `DEV` follows `LOG`. -/
theorem devFollowsLog_of_exec {i : Instr} {s t : State} (h : exec i s = .next t) : DevFollowsLog s t := by
  rcases exec_cases i s with ⟨c, -, -, he⟩ | ⟨out, -, he⟩ | ⟨e, he⟩ | ⟨w, -, he⟩ <;>
    obtain rfl := Host.Outcome.next.inj (he.symm.trans h)
  · exact devFollowsLog_of_same rfl rfl
  · exact devFollowsLog_of_same rfl rfl
  · exact devFollowsLog_of_same (endEarly_keeps e s).1 (endEarly_dev e s)
  · exact devFollowsLog_perform w s

/-- In every step `DEV` follows `LOG`: waiting, taking a frame and raising IllegalCommand touch neither. -/
theorem devFollowsLog_of_step {s t : State} (h : step s = .next t) : DevFollowsLog s t := by
  obtain ⟨-, rfl | ⟨rest, i, hexec⟩ | ⟨rest, rfl⟩⟩ := step_cases h
  · exact devFollowsLog_of_same rfl rfl
  · exact devFollowsLog_of_exec (s := s.takeFrame rest) hexec
  · exact devFollowsLog_of_same rfl rfl

/-- The shadow of a longer log is the shadow of its beginning, changed by the rest. -/
theorem replay_append (log more : List LogEntry) : replay (log ++ more) = more.foldl Memory.applyWrite (replay log) :=
  List.foldl_append

/-- Any number of answered writes keep the canonical form. -/
theorem wf_foldl_applyWrite {m : Memory} (h : m.wf) (more : List LogEntry) : (more.foldl Memory.applyWrite m).wf := by
  induction more generalizing m with
  | nil => exact h
  | cons e more ih => exact ih (wf_applyWrite h e)

/-- Settles O57: the entries a step appends to `LOG` are the ones it applied to `DEV`. -/
theorem shadowReplaysLogEveryStep : Obligations.ShadowReplaysLogEveryStep := by
  intro s t hs h
  obtain ⟨more, hlog, hdev⟩ := devFollowsLog_of_step h
  rw [ShadowIsReplay, hdev, hlog, replay_append, hs]

/-- Settles O58: a step changes `DEV` by answered writes alone, and each keeps the canonical form. -/
theorem shadowCanonicalEveryStep : Obligations.ShadowCanonicalEveryStep := by
  intro s t hs h
  obtain ⟨more, -, hdev⟩ := devFollowsLog_of_step h
  exact hdev ▸ wf_foldl_applyWrite hs more

end Sys2Proof.Machine
end

section
/-! SUPPORT. Proofs for spec/20_memory.md: the addresses of an image (R7, R46), the addresses the block may write (R42, R156),
and the frame of the commands that compute (R40, R95, R101, R122, R127). -/

namespace Sys2Proof.Machine

/-! ## Image addresses (R7, R46) -/

theorem imageFits_iff (base : Byte) : imageFits base = true ↔ base.toNat + 7 ≤ 255 := decide_eq_true_iff

/-- R7 at the five image bases of a platform. -/
theorem imageFits_of_platform (p : Platform) :
    imageFits p.params.ch0.ms = true ∧ imageFits p.params.ch1.ms = true ∧ imageFits p.params.ch2.ms = true ∧
      imageFits p.params.pllA.base = true ∧ imageFits p.params.pllB.base = true := by
  have h := p.wellFormed
  simp only [PlatformParams.wellFormed, Bool.and_eq_true] at h
  obtain ⟨⟨⟨⟨⟨h0, h1⟩, h2⟩, ha⟩, hb⟩, -⟩ := h
  exact ⟨h0, h1, h2, ha, hb⟩

theorem addrMs_imageFits (p : Platform) (c : Channel) : (addrMs p c).toNat + 7 ≤ 255 := by
  obtain ⟨h0, h1, h2, -, -⟩ := imageFits_of_platform p
  rw [← imageFits_iff]
  cases c with
  | ch0 => exact h0
  | ch1 => exact h1
  | ch2 => exact h2

theorem addrPll_imageFits (p : Platform) (q : Pll) : (addrPll p q).toNat + 7 ≤ 255 := by
  obtain ⟨-, -, -, ha, hb⟩ := imageFits_of_platform p
  rw [← imageFits_iff]
  cases q with
  | a => exact ha
  | b => exact hb

/-- No address of an image that fits wraps. -/
theorem toNat_imageAddress {base : Byte} (hb : base.toNat + 7 ≤ 255) {k : Byte} (hk : k.toNat ≤ 7) :
    (base + k).toNat = base.toNat + k.toNat :=
  BitVec.toNat_add_of_lt (by omega)

/-- R46: the addresses of an image that fits, as numbers. -/
theorem imageWrites_addresses {base : Byte} (hb : base.toNat + 7 ≤ 255) (b : Image) :
    (imageWrites base b).map (fun w => w.1.toNat) = (List.range 8).map (fun k => base.toNat + k) := by
  simp (disch := decide) only [imageWrites, List.map_cons, List.map_nil, toNat_imageAddress hb]
  rfl

/-- Settles O37: every image base of a well-formed platform leaves room for the image. -/
theorem imageAddressesDoNotWrap : Obligations.ImageAddressesDoNotWrap := fun p c q b =>
  ⟨imageWrites_addresses (addrMs_imageFits p c) b, imageWrites_addresses (addrPll_imageFits p q) b⟩

/-- Each write of an image that fits goes inside the image. -/
theorem inImage_of_mem_imageWrites {base : Byte} (hb : base.toNat + 7 ≤ 255) {b : Image} {x : Write}
    (hx : x ∈ imageWrites base b) : inImage base x.1 = true := by
  have hmem := List.mem_map_of_mem (f := fun w : Write => w.1.toNat) hx
  rw [imageWrites_addresses hb] at hmem
  obtain ⟨k, hk, hkx⟩ := List.mem_map.mp hmem
  have hk8 := List.mem_range.mp hk
  simp only [inImage, Bool.and_eq_true, decide_eq_true_eq]
  omega

/-! ## The addresses the block may write (R42, R156) -/

/-- R42 as a proposition: the registers of a channel, of a PLL, and the two registers that belong to neither. -/
theorem isParameterAddress_iff (p : Platform) (a : Byte) :
    isParameterAddress p a = true ↔
      (∃ c, a = addrCtrl p c ∨ inImage (addrMs p c) a = true ∨ a = addrPhase p c) ∨
      (∃ q, inImage (addrPll p q) a = true ∨ p.params.pllIntOpt = true ∧ a = addrPllInt p q) ∨
      a = p.params.pllReset ∨ a = p.params.oe := by
  have hch : ∀ c, c ∈ [Channel.ch0, .ch1, .ch2] := fun c => by cases c <;> decide
  have hpll : ∀ q, q ∈ [Pll.a, .b] := fun q => by cases q <;> decide
  simp only [isParameterAddress, Bool.or_eq_true, List.any_eq_true, beq_iff_eq, Bool.and_eq_true, hch, hpll, true_and,
    or_assoc]

/-- Every write of the list goes to an address of R42. -/
def WritesWithinPlatform (p : Platform) (w : List Write) : Prop := ∀ x ∈ w, isParameterAddress p x.1 = true

theorem writesWithinPlatform_nil (p : Platform) : WritesWithinPlatform p [] := fun _ hx => absurd hx List.not_mem_nil

theorem writesWithinPlatform_singleton {p : Platform} {a : Byte} (v : Byte) (h : isParameterAddress p a = true) :
    WritesWithinPlatform p [(a, v)] := fun _ hx => List.mem_singleton.mp hx ▸ h

theorem WritesWithinPlatform.append {p : Platform} {w w' : List Write} (h : WritesWithinPlatform p w)
    (h' : WritesWithinPlatform p w') : WritesWithinPlatform p (w ++ w') :=
  fun x hx => (List.mem_append.mp hx).elim (h x) (h' x)

/-- R145: a channel's control register, its image and its phase register. -/
theorem chWrites_withinPlatform (p : Platform) (c : Channel) (q : Pll) (drive : BitVec 2) (inv : Bool) (mc : OutputConfig)
    (pm : PValues × BitVec 2 × BitVec 3) (phase : Byte) :
    WritesWithinPlatform p (chWrites p c q drive inv mc pm phase) := by
  have hctrl : isParameterAddress p (addrCtrl p c) = true := (isParameterAddress_iff p _).mpr (.inl ⟨c, .inl rfl⟩)
  have hphase : isParameterAddress p (addrPhase p c) = true := (isParameterAddress_iff p _).mpr (.inl ⟨c, .inr (.inr rfl)⟩)
  have himage : WritesWithinPlatform p (imageWrites (addrMs p c) (img8 pm.1 pm.2.1 pm.2.2)) := fun _ hx =>
    (isParameterAddress_iff p _).mpr (.inl ⟨c, .inr (.inl (inImage_of_mem_imageWrites (addrMs_imageFits p c) hx))⟩)
  exact ((writesWithinPlatform_singleton _ hctrl).append himage).append (writesWithinPlatform_singleton _ hphase)

/-- R148: the integer-mode register is written only where the platform has the option. -/
theorem pllIntWrite_withinPlatform (p : Platform) (q : Pll) (pc : PllConfig) :
    WritesWithinPlatform p (pllIntWrite p q pc) := by
  unfold pllIntWrite
  split
  · next h =>
    have hopt : p.params.pllIntOpt = true := (Bool.and_eq_true_iff.mp h).1
    exact writesWithinPlatform_singleton _ ((isParameterAddress_iff p _).mpr (.inr (.inl ⟨q, .inr ⟨hopt, rfl⟩⟩)))
  · exact writesWithinPlatform_nil p

/-- R147: a PLL's image, its integer-mode register and the reset register. -/
theorem pllWrites_withinPlatform (p : Platform) (q : Pll) (pc : PllConfig) (pp : PValues × BitVec 2 × BitVec 3) :
    WritesWithinPlatform p (pllWrites p q pc pp) := by
  have himage : WritesWithinPlatform p (imageWrites (addrPll p q) (img8 pp.1 pp.2.1 pp.2.2)) := fun _ hx =>
    (isParameterAddress_iff p _).mpr (.inr (.inl ⟨q, .inl (inImage_of_mem_imageWrites (addrPll_imageFits p q) hx)⟩))
  have hreset : isParameterAddress p p.params.pllReset = true := (isParameterAddress_iff p _).mpr (.inr (.inr (.inl rfl)))
  exact (himage.append (pllIntWrite_withinPlatform p q pc)).append (writesWithinPlatform_singleton _ hreset)

/-- A write list that CFGCH answers is that of a valid channel with a legal divider in range (R141). -/
theorem eq_chWrites_of_cfgchWrites {p : Platform} {ch : Byte} {q : Pll} {drive : BitVec 2} {inv : Bool} {mc : OutputConfig}
    {phase : Byte} {w : List Write} (h : cfgchWrites p ch q drive inv mc phase = .ok w) :
    ∃ c pm, cfgChannel ch = some c ∧ legalDiv mc.div mc.y mc.ai = true ∧ pMs mc = .ok pm ∧
      w = chWrites p c q drive inv mc pm phase := by
  unfold cfgchWrites at h
  split at h
  · cases h
  · next c hc =>
    split at h
    · next hlegal =>
      split at h
      · next pm hpm => cases h; exact ⟨c, pm, hc, hlegal, hpm, rfl⟩
      · cases h
    · cases h

/-- A write list that CFGPLL answers is that of a feedback divider in range (R146). -/
theorem eq_pllWrites_of_cfgpllWrites {p : Platform} {q : Pll} {pc : PllConfig} {w : List Write}
    (h : cfgpllWrites p q pc = .ok w) : ∃ pp, pPll pc = .ok pp ∧ w = pllWrites p q pc pp := by
  unfold cfgpllWrites at h
  split at h
  · next pp hpp => cases h; exact ⟨pp, hpp, rfl⟩
  · cases h

/-- A write list that SETUP's configurations answer is the PLL's and then the channel's, both in range (R152). -/
theorem eq_append_of_setupConfigWrites {p : Platform} {c : Channel} {q : Pll} {drive : BitVec 2} {pc : PllConfig}
    {mc : OutputConfig} {w : List Write} (h : setupConfigWrites p c q drive pc mc = .ok w) :
    ∃ pp pm, legalDiv mc.div mc.y mc.ai = true ∧ pPll pc = .ok pp ∧ pMs mc = .ok pm ∧
      w = pllWrites p q pc pp ++ chWrites p c q drive false mc pm 0 := by
  unfold setupConfigWrites at h
  split at h
  · next hlegal =>
    split at h
    · cases h
    · next pp hpp =>
      split at h
      · cases h
      · next pm hpm => cases h; exact ⟨pp, pm, hlegal, hpp, hpm, rfl⟩
  · cases h

/-- A write list that SETUP answers is that of a supported channel and of what PLAN plans (R152, R153). -/
theorem setupConfigWrites_of_setupWrites {p : Platform} {corrValid : Bool} {corr : Int} {ch : Byte} {f : Nat}
    {drive : BitVec 2} {w : List Write} (h : setupWrites p corrValid corr ch f drive = .ok w) :
    ∃ c q pc mc, corrValid = true ∧ setupChannel ch = some (c, q) ∧ planBody corr f = .ok (pc, mc) ∧
      setupConfigWrites p c q drive pc mc = .ok w := by
  unfold setupWrites at h
  split at h
  · next hcv =>
    split at h
    · cases h
    · next c q hch =>
      split at h
      · cases h
      · next pc mc hplan => exact ⟨c, q, pc, mc, hcv, hch, hplan, h⟩
  · cases h

/-- R156: no command's write list holds an address outside R42. -/
theorem commandWrites_withinPlatform {i : Instr} {s : State} {w : List Write} (h : commandWrites i s = .ok w) :
    WritesWithinPlatform s.platform w := by
  cases i with
  | setcorr | plan | planiq | pcalc | encode => cases h; exact writesWithinPlatform_nil _
  | cfgch ch q drive inv div y z rdiv ai phase =>
    obtain ⟨c, pm, -, -, -, rfl⟩ := eq_chWrites_of_cfgchWrites h
    exact chWrites_withinPlatform _ _ _ _ _ _ _ _
  | cfgpll q mult num denom =>
    obtain ⟨pp, -, rfl⟩ := eq_pllWrites_of_cfgpllWrites h
    exact pllWrites_withinPlatform _ _ _ _
  | setoe mask =>
    cases h
    exact writesWithinPlatform_singleton _ ((isParameterAddress_iff _ _).mpr (.inr (.inr (.inr rfl))))
  | setup ch f drive =>
    obtain ⟨c, q, pc, mc, -, -, -, hw⟩ := setupConfigWrites_of_setupWrites h
    obtain ⟨pp, pm, -, -, -, rfl⟩ := eq_append_of_setupConfigWrites hw
    exact (pllWrites_withinPlatform _ _ _ _).append (chWrites_withinPlatform _ _ _ _ _ _ _ _)

/-- The invariant speaks of the log and the platform alone. -/
theorem LogWithinPlatform.of_same {s t : State} (h : LogWithinPlatform s) (hlog : t.log = s.log)
    (hplat : t.platform = s.platform) : LogWithinPlatform t := by
  rw [LogWithinPlatform, hlog, hplat]; exact h

/-- One bus write to an address of R42 keeps the invariant. -/
theorem LogWithinPlatform.busWrite {s : State} (h : LogWithinPlatform s) {a : Byte} (v : Byte)
    (ha : isParameterAddress s.platform a = true) : LogWithinPlatform (s.busWrite a v) := by
  intro e he
  rw [busWrite_log] at he
  rcases List.mem_append.mp he with he | he
  · exact h e he
  · obtain rfl := List.mem_singleton.mp he
    exact ha

/-- R150: performing a write list within the platform keeps the invariant, since no write changes the platform. -/
theorem LogWithinPlatform.perform {s : State} (h : LogWithinPlatform s) {w : List Write}
    (hw : WritesWithinPlatform s.platform w) : LogWithinPlatform (s.perform w) := by
  refine (perform_induction (P := fun t => LogWithinPlatform t ∧ t.platform = s.platform) w s ?_ (fun _ _ ht => ht)
    ⟨h, rfl⟩).1
  rintro t a v hmem ⟨ht, hplat⟩
  exact ⟨ht.busWrite v (hplat ▸ hw (a, v) hmem), hplat⟩

/-- Every command keeps the invariant. -/
theorem LogWithinPlatform.of_exec {i : Instr} {s t : State} (hs : LogWithinPlatform s) (h : exec i s = .next t) :
    LogWithinPlatform t := by
  rcases exec_cases i s with ⟨c, -, -, he⟩ | ⟨out, -, he⟩ | ⟨e, he⟩ | ⟨w, hw, he⟩ <;>
    obtain rfl := Host.Outcome.next.inj (he.symm.trans h)
  · exact hs
  · exact hs
  · obtain ⟨hlog, hplat, -⟩ := endEarly_keeps e s
    exact hs.of_same hlog hplat
  · exact hs.perform (commandWrites_withinPlatform hw)

/-- Settles O59: only a command extends `LOG`, and only by its own write list, which names addresses of R42 alone. -/
theorem writesStayOnParameterAddresses : Obligations.WritesStayOnParameterAddresses := by
  intro s t hs h
  obtain ⟨-, rfl | ⟨rest, i, hexec⟩ | ⟨rest, rfl⟩⟩ := step_cases h
  · exact hs
  · exact LogWithinPlatform.of_exec (s := s.takeFrame rest) hs hexec
  · exact hs

/-! ## The frame of the computing commands (R40, R95, R101, R122, R127) -/

/-- The one fault of PLAN's planner (R93, R95). -/
theorem eq_planDomain_of_planBody {corr : Int} {f : Nat} {c : FaultCode} (h : planBody corr f = .error c) :
    c = .planDomain := by
  simp only [planBody] at h
  split at h
  · cases h; rfl
  · split at h <;> cases h

/-- The one fault of PLANIQ's planner (R93, R101). -/
theorem eq_planDomain_of_planIqBody {corr : Int} {f : Nat} {c : FaultCode} (h : planIqBody corr f = .error c) :
    c = .planDomain := by
  simp only [planIqBody] at h
  split at h
  · cases h; rfl
  · cases h

/-- R22, R93: a planning command whose planner has the one fault PlanDomain raises that or NotInitialized. -/
theorem fault_of_planResult {corrValid : Bool} {body : Except FaultCode (PllConfig × OutputConfig)} {c : FaultCode}
    (hbody : ∀ c, body = .error c → c = .planDomain) (h : planResult corrValid body = .error (.fault c)) :
    c = .planDomain ∨ c = .notInitialized := by
  unfold planResult at h
  split at h
  · split at h
    · cases h
    · cases h; exact .inl (hbody c rfl)
  · cases h; exact .inr rfl

/-- The one fault of the parameter computation (R123). -/
theorem eq_paramRange_of_pvals {i n d : Nat} {ms : Bool} {c : FaultCode} (h : pvals i n d ms = .error c) :
    c = .paramRange := by
  simp only [pvals] at h
  split at h
  · cases h
  · split at h
    · cases h; rfl
    · split at h
      · cases h; rfl
      · cases h

/-- The one fault of PCALC (R122). -/
theorem eq_paramRange_of_pcalcResult {i n d : Nat} {ms : Bool} {c : FaultCode}
    (h : pcalcResult i n d ms = .error (.fault c)) : c = .paramRange := by
  unfold pcalcResult at h
  split at h
  · cases h
  · next hp => cases h; exact eq_paramRange_of_pvals hp

/-- The one fault of ENCODE (R127). -/
theorem eq_paramRange_of_encodeResult {p1 p2 p3 : Word} {d4 : BitVec 2} {rdiv : BitVec 3} {c : FaultCode}
    (h : encodeResult p1 p2 p3 d4 rdiv = .error (.fault c)) : c = .paramRange := by
  unfold encodeResult at h
  split at h
  · cases h; rfl
  · cases h

/-- Nothing but the result port changed from `s` to `t`, or `FAULT`, to a code that R172 gives the command. -/
def ComputingFrame (i : Instr) (s t : State) : Prop :=
  SameCorr s t ∧ SameInputs s t ∧ SameDevice s t ∧ (t.fault = s.fault ∨ ∃ c, t.fault = some c ∧ raises i c = true)

/-- A command that concludes with `r` has this frame if every fault in `r` is the command's own. -/
theorem conclude_computingFrame {i : Instr} {r : Except Early Output} (s : State)
    (hr : ∀ c, r = .error (.fault c) → raises i c = true) : ComputingFrame i s (s.conclude r) := by
  rcases conclude_cases r s with ⟨out, -, h⟩ | ⟨e, rfl, h⟩ <;> rw [h]
  · exact ⟨⟨rfl, rfl⟩, ⟨rfl, rfl, rfl⟩, ⟨rfl, fun _ => rfl⟩, .inl rfl⟩
  · obtain ⟨hlog, hin⟩ := endEarly_keeps e s
    refine ⟨endEarly_sameCorr e s, hin, ⟨hlog, fun _ => by rw [endEarly_dev]⟩, ?_⟩
    rcases endEarly_cases e s with h | h | ⟨c, rfl, h⟩ <;> rw [h]
    · exact .inl rfl
    · exact .inl rfl
    · exact .inr ⟨c, rfl, hr c rfl⟩

/-- R95: PLAN raises PlanDomain or NotInitialized. -/
theorem execPlan_computingFrame {f : Word} {s t : State} (h : exec (.plan f) s = .next t) :
    ComputingFrame (.plan f) s t := by
  obtain rfl := Host.Outcome.next.inj h
  refine conclude_computingFrame s fun c hc => ?_
  obtain rfl | rfl := fault_of_planResult (fun _ => eq_planDomain_of_planBody) hc <;> rfl

/-- R101: PLANIQ raises PlanDomain or NotInitialized. -/
theorem execPlaniq_computingFrame {f : Word} {s t : State} (h : exec (.planiq f) s = .next t) :
    ComputingFrame (.planiq f) s t := by
  obtain rfl := Host.Outcome.next.inj h
  refine conclude_computingFrame s fun c hc => ?_
  obtain rfl | rfl := fault_of_planResult (fun _ => eq_planDomain_of_planIqBody) hc <;> rfl

/-- R122: PCALC raises ParamRange. -/
theorem execPcalc_computingFrame {x y z : Word} {ms : Bool} {s t : State} (h : exec (.pcalc x y z ms) s = .next t) :
    ComputingFrame (.pcalc x y z ms) s t := by
  obtain rfl := Host.Outcome.next.inj h
  refine conclude_computingFrame s fun c hc => ?_
  obtain rfl := eq_paramRange_of_pcalcResult hc
  rfl

/-- R127: ENCODE raises ParamRange. -/
theorem execEncode_computingFrame {x y z : Word} {d4 : BitVec 2} {rdiv : BitVec 3} {s t : State}
    (h : exec (.encode x y z d4 rdiv) s = .next t) : ComputingFrame (.encode x y z d4 rdiv) s t := by
  obtain rfl := Host.Outcome.next.inj h
  refine conclude_computingFrame s fun c hc => ?_
  obtain rfl := eq_paramRange_of_encodeResult hc
  rfl

/-- Settles O49: each of the four concludes with a result whose faults are its own. -/
theorem frameOfComputingCommands : Obligations.FrameOfComputingCommands := by
  intro i s t f x y z ms d4 rdiv hi h
  simp only [List.mem_cons, List.not_mem_nil, or_false] at hi
  obtain rfl | rfl | rfl | rfl := hi
  · exact execPlan_computingFrame h
  · exact execPlaniq_computingFrame h
  · exact execPcalc_computingFrame h
  · exact execEncode_computingFrame h

end Sys2Proof.Machine
end

section
/-! SUPPORT. Proofs for spec/30_encoding.md, the command frames: what an operand's bytes hold (R60, R62), that decoding and encoding
undo each other (R61 to R64), and command entry's refusal of every other frame (R63, R174). -/

namespace Sys2Proof

/-! ## Operand bytes (R60, R62) -/

/-- Concatenation, as a number. -/
theorem toNat_append_eq_add {m n : Nat} (x : BitVec m) (y : BitVec n) :
    (x ++ y).toNat = x.toNat * 2 ^ n + y.toNat := by
  rw [BitVec.toNat_append, ← Nat.shiftLeft_add_eq_or_of_lt y.isLt, Nat.shiftLeft_eq]

/-- A field of a bit vector, as a number. -/
theorem toNat_extractLsb'_eq_div_mod {n : Nat} (s m : Nat) (x : BitVec n) :
    (x.extractLsb' s m).toNat = x.toNat / 2 ^ s % 2 ^ m := by
  rw [BitVec.extractLsb'_toNat, Nat.shiftRight_eq_div_pow]

/-- R60: most significant byte first. -/
theorem toNat_wordOf (b3 b2 b1 b0 : Byte) :
    (wordOf b3 b2 b1 b0).toNat = 2 ^ 24 * b3.toNat + 2 ^ 16 * b2.toNat + 2 ^ 8 * b1.toNat + b0.toNat := by
  simp only [wordOf, toNat_append_eq_add]
  omega

@[simp] theorem bytesOf_wordOf (b3 b2 b1 b0 : Byte) : bytesOf (wordOf b3 b2 b1 b0) = [b3, b2, b1, b0] := by
  simp only [bytesOf, List.cons.injEq, ← BitVec.toNat_inj, toNat_extractLsb'_eq_div_mod, toNat_wordOf, and_true]
  omega

@[simp] theorem wordOf_extractLsb' (w : Word) :
    wordOf (w.extractLsb' 24 8) (w.extractLsb' 16 8) (w.extractLsb' 8 8) (w.extractLsb' 0 8) = w := by
  have hw := w.isLt
  simp only [← BitVec.toNat_inj, toNat_wordOf, toNat_extractLsb'_eq_div_mod]
  omega

/-- R62: a narrow operand is read from the byte with zeros above it, and from no other. -/
theorem narrow_eq_some_iff {w : Nat} (hw : w ≤ 8) {b : Byte} {x : BitVec w} :
    narrow w b = some x ↔ b = x.setWidth 8 := by
  have hx := x.isLt
  rw [narrow, Option.ite_none_right_eq_some, Option.some.injEq, ← BitVec.toNat_inj, ← BitVec.toNat_inj,
    BitVec.toNat_setWidth, BitVec.toNat_setWidth_of_le hw]
  constructor
  · rintro ⟨hb, h⟩
    rw [← h, Nat.mod_eq_of_lt hb]
  · intro h
    rw [h]
    exact ⟨hx, Nat.mod_eq_of_lt hx⟩

theorem flag_eq_some_iff {b : Byte} {f : Bool} : flag b = some f ↔ b = flagByte f := by
  have hf : flagByte f = (BitVec.ofBool f).setWidth 8 := by cases f <;> rfl
  have hbit : ∀ x : BitVec 1, (x == 1#1) = f ↔ x = BitVec.ofBool f := by cases f <;> decide
  simp [hf, flag, hbit, narrow_eq_some_iff]

theorem pllOf_eq_some_iff {b : Byte} {q : Pll} : pllOf b = some q ↔ b = pllByte q := by
  cases q <;> simp [pllOf, flag_eq_some_iff, pllByte, flagByte]

@[simp] theorem narrow_setWidth {w : Nat} (hw : w ≤ 8) (x : BitVec w) : narrow w (x.setWidth 8) = some x :=
  (narrow_eq_some_iff hw).mpr rfl

@[simp] theorem flag_flagByte (f : Bool) : flag (flagByte f) = some f := flag_eq_some_iff.mpr rfl

@[simp] theorem pllOf_pllByte (q : Pll) : pllOf (pllByte q) = some q := pllOf_eq_some_iff.mpr rfl

/-! ## Decoding undoes encoding (R61, R62, R64) -/

/-- The operand bytes of each command are read back, operand by operand. -/
theorem operands_operandFrame (i : Instr) : operands (opcode i) (operandFrame i) = some i := by
  cases i <;> simp [operands, opcode, operandFrame, bytesOf]

theorem encodedFrame (i : Instr) : Laws.EncodedFrame.Statement i := by
  cases i with
  | setcorr corr => exact Laws.EncodedFrame.setcorr corr
  | plan f => exact Laws.EncodedFrame.plan f
  | planiq f => exact Laws.EncodedFrame.planiq f
  | pcalc i n d ms => exact Laws.EncodedFrame.pcalc i n d ms
  | encode p1 p2 p3 d4 rdiv => exact Laws.EncodedFrame.encode p1 p2 p3 d4 rdiv
  | cfgch ch pll drive inv div y z rdiv ai phase =>
    exact Laws.EncodedFrame.cfgch ch pll drive inv div y z rdiv ai phase
  | cfgpll pll mult num denom => exact Laws.EncodedFrame.cfgpll pll mult num denom
  | setoe mask => exact Laws.EncodedFrame.setoe mask
  | setup ch f drive => exact Laws.EncodedFrame.setup ch f drive

theorem decode_encode (i : Instr) : decode (encode i) = .ok i := by
  obtain ⟨-, hlen⟩ := encodedFrame i
  simp only [encode] at hlen
  simp [decode, encode, hlen, operands_operandFrame]

/-- Settles O1: the opcode gives the frame's length, and each operand is read back from its own bytes. -/
theorem decodeEncodeRoundTrip : Obligations.DecodeEncodeRoundTrip := decode_encode

/-! ## Encoding undoes decoding (R62, R63) -/

/-- Operands are read from the bytes that encode them, and from no others. -/
theorem encode_of_operands {op : Byte} {rest : List Byte} {i : Instr} (h : operands op rest = some i) :
    encode i = op :: rest := by
  unfold operands at h
  split at h
  · next hop =>
    obtain rfl : op = 1 := BitVec.eq_of_toNat_eq hop
    split at h <;> cases h
    simp [encode, opcode, operandFrame]
  · next hop =>
    obtain rfl : op = 2 := BitVec.eq_of_toNat_eq hop
    split at h <;> cases h
    simp [encode, opcode, operandFrame]
  · next hop =>
    obtain rfl : op = 3 := BitVec.eq_of_toNat_eq hop
    split at h <;> cases h
    simp [encode, opcode, operandFrame]
  · next hop =>
    obtain rfl : op = 4 := BitVec.eq_of_toNat_eq hop
    split at h
    · obtain ⟨ms, hms, rfl⟩ := Option.map_eq_some_iff.mp h
      simp [encode, opcode, operandFrame, flag_eq_some_iff.mp hms]
    · cases h
  · next hop =>
    obtain rfl : op = 5 := BitVec.eq_of_toNat_eq hop
    split at h
    · obtain ⟨d4, hd4, h⟩ := Option.bind_eq_some_iff.mp h
      obtain ⟨rdiv, hrdiv, rfl⟩ := Option.map_eq_some_iff.mp h
      rw [narrow_eq_some_iff (by decide)] at hd4 hrdiv
      simp [encode, opcode, operandFrame, hd4, hrdiv]
    · cases h
  · next hop =>
    obtain rfl : op = 6 := BitVec.eq_of_toNat_eq hop
    split at h
    · obtain ⟨pll, hpll, h⟩ := Option.bind_eq_some_iff.mp h
      obtain ⟨drive, hdrive, h⟩ := Option.bind_eq_some_iff.mp h
      obtain ⟨inv, hinv, h⟩ := Option.bind_eq_some_iff.mp h
      obtain ⟨rdiv, hrdiv, h⟩ := Option.bind_eq_some_iff.mp h
      obtain ⟨ai, hai, rfl⟩ := Option.map_eq_some_iff.mp h
      rw [narrow_eq_some_iff (by decide)] at hdrive hrdiv
      rw [flag_eq_some_iff] at hinv hai
      simp [encode, opcode, operandFrame, pllOf_eq_some_iff.mp hpll, hdrive, hinv, hrdiv, hai]
    · cases h
  · next hop =>
    obtain rfl : op = 7 := BitVec.eq_of_toNat_eq hop
    split at h
    · obtain ⟨pll, hpll, rfl⟩ := Option.map_eq_some_iff.mp h
      simp [encode, opcode, operandFrame, pllOf_eq_some_iff.mp hpll]
    · cases h
  · next hop =>
    obtain rfl : op = 8 := BitVec.eq_of_toNat_eq hop
    split at h <;> cases h
    rfl
  · next hop =>
    obtain rfl : op = 9 := BitVec.eq_of_toNat_eq hop
    split at h
    · obtain ⟨drive, hdrive, rfl⟩ := Option.map_eq_some_iff.mp h
      rw [narrow_eq_some_iff (by decide)] at hdrive
      simp [encode, opcode, operandFrame, hdrive]
    · cases h
  · cases h

theorem encode_of_decode {fr : Frame} {i : Instr} (h : decode fr = .ok i) : encode i = fr := by
  unfold decode at h
  split at h
  · cases h
  · split at h
    · cases h
    · split at h
      · split at h
        · next hi => cases h; exact encode_of_operands hi
        · cases h
      · cases h

/-! ## Every well-formed frame is an encoding (R60 to R63) -/

/-- Bytes that fit a 32-bit operand begin with the bytes of a word. -/
theorem operandsFit_word_iff {ws : List Nat} {bs : List Byte} :
    operandsFit (32 :: ws) bs = true ↔ ∃ w bs', bs = bytesOf w ++ bs' ∧ operandsFit ws bs' = true := by
  constructor
  · intro h
    simp only [operandsFit, operandBytes, Bool.and_eq_true] at h
    obtain ⟨⟨hlen, -⟩, hrest⟩ := h
    match bs, hlen with
    | b3 :: b2 :: b1 :: b0 :: bs', _ => exact ⟨wordOf b3 b2 b1 b0, bs', by simp, hrest⟩
  · rintro ⟨w, bs', rfl, hrest⟩
    rwa [Laws.EncodedFrame.operandsFit_word]

/-- Bytes that fit a narrow operand begin with a byte that has zeros above it. -/
theorem operandsFit_narrow_iff {k : Nat} (h0 : 0 < k) (h8 : k ≤ 8) {ws : List Nat} {bs : List Byte} :
    operandsFit (k :: ws) bs = true ↔
      ∃ (x : BitVec k) (bs' : List Byte), bs = x.setWidth 8 :: bs' ∧ operandsFit ws bs' = true := by
  constructor
  · intro h
    have hk : (k + 7) / 8 = 1 := by omega
    simp only [operandsFit, operandBytes, hk, Bool.and_eq_true, decide_eq_true_eq] at h
    obtain ⟨⟨hlen, hlt⟩, hrest⟩ := h
    match bs, hlen with
    | b :: bs', _ =>
      have hb : b.toNat < 2 ^ k := by simpa [bigEndian] using hlt
      have hx : narrow k b = some (b.setWidth k) := if_pos hb
      exact ⟨b.setWidth k, bs', by rw [← (narrow_eq_some_iff h8).mp hx], hrest⟩
  · rintro ⟨x, bs', rfl, hrest⟩
    rwa [Laws.EncodedFrame.operandsFit_byte ws _ bs' h0 h8 (by rw [BitVec.toNat_setWidth_of_le h8]; exact x.isLt)]

theorem operandsFit_flag_iff {ws : List Nat} {bs : List Byte} :
    operandsFit (1 :: ws) bs = true ↔ ∃ f bs', bs = flagByte f :: bs' ∧ operandsFit ws bs' = true := by
  rw [operandsFit_narrow_iff (by decide) (by decide)]
  constructor
  · rintro ⟨x, bs', rfl, hrest⟩
    have hx : x.setWidth 8 = flagByte (x == 1#1) := flag_eq_some_iff.mp (by simp [flag])
    exact ⟨x == 1#1, bs', by rw [hx], hrest⟩
  · rintro ⟨f, bs', rfl, hrest⟩
    exact ⟨BitVec.ofBool f, bs', by cases f <;> rfl, hrest⟩

theorem operandsFit_pll_iff {ws : List Nat} {bs : List Byte} :
    operandsFit (1 :: ws) bs = true ↔ ∃ q bs', bs = pllByte q :: bs' ∧ operandsFit ws bs' = true := by
  rw [operandsFit_flag_iff]
  constructor
  · rintro ⟨f, bs', rfl, hrest⟩
    exact ⟨if f then .b else .a, bs', by cases f <;> rfl, hrest⟩
  · rintro ⟨q, bs', rfl, hrest⟩
    exact ⟨Machine.pllBit q, bs', by cases q <;> rfl, hrest⟩

theorem operandsFit_nil_iff {bs : List Byte} : operandsFit [] bs = true ↔ bs = [] := List.isEmpty_iff

/-- Operands that fit the widths of an opcode are the operands of a command with that opcode. -/
theorem exists_encode_of_operandsFit {op : Byte} {ws : List Nat} {rest : List Byte} (hw : operandWidths op = some ws)
    (h : operandsFit ws rest = true) : ∃ i, encode i = op :: rest := by
  unfold operandWidths at hw
  split at hw <;> cases hw
  · next hop =>
    obtain rfl : op = 1 := BitVec.eq_of_toNat_eq hop
    simp only [operandsFit_word_iff, operandsFit_nil_iff] at h
    obtain ⟨corr, _, rfl, rfl⟩ := h
    exact ⟨.setcorr corr, rfl⟩
  · next hop =>
    obtain rfl : op = 2 := BitVec.eq_of_toNat_eq hop
    simp only [operandsFit_word_iff, operandsFit_nil_iff] at h
    obtain ⟨f, _, rfl, rfl⟩ := h
    exact ⟨.plan f, rfl⟩
  · next hop =>
    obtain rfl : op = 3 := BitVec.eq_of_toNat_eq hop
    simp only [operandsFit_word_iff, operandsFit_nil_iff] at h
    obtain ⟨f, _, rfl, rfl⟩ := h
    exact ⟨.planiq f, rfl⟩
  · next hop =>
    obtain rfl : op = 4 := BitVec.eq_of_toNat_eq hop
    simp only [operandsFit_word_iff, operandsFit_flag_iff, operandsFit_nil_iff] at h
    obtain ⟨i, _, rfl, n, _, rfl, d, _, rfl, ms, _, rfl, rfl⟩ := h
    exact ⟨.pcalc i n d ms, rfl⟩
  · next hop =>
    obtain rfl : op = 5 := BitVec.eq_of_toNat_eq hop
    simp (disch := decide) only [operandsFit_word_iff, operandsFit_narrow_iff, operandsFit_nil_iff] at h
    obtain ⟨p1, _, rfl, p2, _, rfl, p3, _, rfl, d4, _, rfl, rdiv, _, rfl, rfl⟩ := h
    exact ⟨.encode p1 p2 p3 d4 rdiv, rfl⟩
  · next hop =>
    obtain rfl : op = 6 := BitVec.eq_of_toNat_eq hop
    rw [operandsFit_narrow_iff (by decide) (by decide)] at h
    obtain ⟨ch, _, rfl, h⟩ := h
    rw [operandsFit_pll_iff] at h
    obtain ⟨pll, _, rfl, h⟩ := h
    simp (disch := decide) only [operandsFit_narrow_iff (k := 2), operandsFit_flag_iff, operandsFit_word_iff,
      operandsFit_narrow_iff (k := 3), operandsFit_narrow_iff (k := 8), operandsFit_nil_iff] at h
    obtain ⟨drive, _, rfl, inv, _, rfl, div, _, rfl, y, _, rfl, z, _, rfl, rdiv, _, rfl, ai, _, rfl, phase, _, rfl,
      rfl⟩ := h
    exact ⟨.cfgch ch pll drive inv div y z rdiv ai phase, rfl⟩
  · next hop =>
    obtain rfl : op = 7 := BitVec.eq_of_toNat_eq hop
    simp only [operandsFit_pll_iff, operandsFit_word_iff, operandsFit_nil_iff] at h
    obtain ⟨pll, _, rfl, mult, _, rfl, num, _, rfl, denom, _, rfl, rfl⟩ := h
    exact ⟨.cfgpll pll mult num denom, rfl⟩
  · next hop =>
    obtain rfl : op = 8 := BitVec.eq_of_toNat_eq hop
    simp (disch := decide) only [operandsFit_narrow_iff, operandsFit_nil_iff] at h
    obtain ⟨mask, _, rfl, rfl⟩ := h
    exact ⟨.setoe mask, rfl⟩
  · next hop =>
    obtain rfl : op = 9 := BitVec.eq_of_toNat_eq hop
    simp (disch := decide) only [operandsFit_word_iff, operandsFit_narrow_iff, operandsFit_nil_iff] at h
    obtain ⟨ch, _, rfl, f, _, rfl, drive, _, rfl, rfl⟩ := h
    exact ⟨.setup ch f drive, rfl⟩

/-- R62, R63: the well-formed frames are the encodings of commands. -/
theorem frameWellFormed_iff_exists_encode (fr : Frame) : frameWellFormed fr = true ↔ ∃ i, encode i = fr := by
  constructor
  · intro h
    unfold frameWellFormed at h
    split at h
    · cases h
    · split at h
      · cases h
      · next hw => exact exists_encode_of_operandsFit hw h
  · rintro ⟨i, rfl⟩
    exact (encodedFrame i).1

theorem exists_decode_iff_frameWellFormed (fr : Frame) : (∃ i, decode fr = .ok i) ↔ frameWellFormed fr = true := by
  rw [frameWellFormed_iff_exists_encode]
  constructor
  · rintro ⟨i, h⟩
    exact ⟨i, encode_of_decode h⟩
  · rintro ⟨i, rfl⟩
    exact ⟨i, decode_encode i⟩

/-- Settles O2: the frames that decode and the well-formed frames are both the encodings of commands. -/
theorem decodeAcceptsExactlyEncodings : Obligations.DecodeAcceptsExactlyEncodings :=
  ⟨exists_decode_iff_frameWellFormed, fun _ _ => encode_of_decode⟩

/-- Settles O3: each frame evaluated. -/
theorem specFramesDecode : Obligations.SpecFramesDecode := by
  refine ⟨?_, ?_, ?_, ?_, ?_, ?_, ?_, ?_, ?_⟩ <;> decide

end Sys2Proof

namespace Sys2Proof.Machine

/-! ## Command entry (R63, R174) -/

/-- R174: a frame that does not decode raises IllegalCommand on the state it was taken from. -/
theorem step_of_decode_error {s : State} {fr : Frame} {rest : List Frame} {e : Malformed} (hfault : s.fault = none)
    (hframes : s.frames = fr :: rest) (hdec : decode fr = .error e) :
    step s = .next ((s.takeFrame rest).raise .illegalCommand) := by
  simp [step, State.entry, hfault, hframes, hdec]

/-- Settles O5: a frame that is not well formed does not decode, and raising a fault is all that command entry then does. -/
theorem malformedFrameRaisesIllegalCommand : Obligations.MalformedFrameRaisesIllegalCommand := by
  intro s fr rest hfault hframes hwf
  cases hdec : decode fr with
  | ok i => simp [(exists_decode_iff_frameWellFormed fr).mp ⟨i, hdec⟩] at hwf
  | error e => exact ⟨_, step_of_decode_error hfault hframes hdec, raise_onlyFault _ (s.takeFrame rest)⟩

end Sys2Proof.Machine
end

section
/-! SUPPORT. Proofs for spec/30_encoding.md, the register bytes: the divider image as numbers (R66, R127), the clock-control byte
(R70, R144), the output-enable byte (R71) and the phase byte (R72). -/

namespace Sys2Proof.Machine

/-! ## The divider image (R66, R127) -/

/-- R66: the eight bytes of an image as numbers. -/
theorem toNat_img8 (p : PValues) (d4 : BitVec 2) (rdiv : BitVec 3) :
    (img8 p d4 rdiv).b0.toNat = p.p3.toNat / 2 ^ 8 % 2 ^ 8 ∧ (img8 p d4 rdiv).b1.toNat = p.p3.toNat % 2 ^ 8 ∧
      (img8 p d4 rdiv).b2.toNat = 16 * rdiv.toNat + 4 * d4.toNat + p.p1.toNat / 2 ^ 16 ∧
      (img8 p d4 rdiv).b3.toNat = p.p1.toNat / 2 ^ 8 % 2 ^ 8 ∧ (img8 p d4 rdiv).b4.toNat = p.p1.toNat % 2 ^ 8 ∧
      (img8 p d4 rdiv).b5.toNat = 16 * (p.p3.toNat / 2 ^ 16) + p.p2.toNat / 2 ^ 16 ∧
      (img8 p d4 rdiv).b6.toNat = p.p2.toNat / 2 ^ 8 % 2 ^ 8 ∧ (img8 p d4 rdiv).b7.toNat = p.p2.toNat % 2 ^ 8 := by
  have h1 := p.p1.isLt
  have h2 := p.p2.isLt
  have h3 := p.p3.isLt
  simp only [img8, toNat_append_eq_add, toNat_extractLsb'_eq_div_mod, BitVec.toNat_ofNat, Nat.pow_zero, Nat.div_one, true_and,
    and_true]
  omega

/-- R127: P values that fit their fields are encoded. -/
theorem encodeResult_of_fits {p1 p2 p3 : Word} (h1 : p1.toNat < 2 ^ 18) (h2 : p2.toNat < 2 ^ 20) (h3 : p3.toNat < 2 ^ 20)
    (d4 : BitVec 2) (rdiv : BitVec 3) :
    encodeResult p1 p2 p3 d4 rdiv = .ok (.image (img8 ⟨p1.setWidth 18, p2.setWidth 20, p3.setWidth 20⟩ d4 rdiv)) :=
  if_neg (by omega)

/-- Settles O33: the image of R66, whose fields hold the operands whole. -/
theorem encodeCompletes : Obligations.EncodeCompletes := by
  intro p1 p2 p3 d4 rdiv s h1 h2 h3
  refine ⟨img8 ⟨p1.setWidth 18, p2.setWidth 20, p3.setWidth 20⟩ d4 rdiv, ?_, ?_⟩
  · rw [exec, execEncode, encodeResult_of_fits h1 h2 h3]
    rfl
  · have himg := toNat_img8 ⟨p1.setWidth 18, p2.setWidth 20, p3.setWidth 20⟩ d4 rdiv
    simp only [BitVec.toNat_setWidth, Nat.mod_eq_of_lt h1, Nat.mod_eq_of_lt h2, Nat.mod_eq_of_lt h3] at himg
    exact himg

/-! ## The clock-control byte (R70, R144) -/

/-- A one-bit field shows at its position alone. -/
theorem getLsbD_bitAt (b : Bool) {pos : Nat} (hpos : pos < 8) (k : Nat) :
    (bitAt b pos).getLsbD k = (b && decide (k = pos)) := by
  rw [bitAt, BitVec.getLsbD_shiftLeft]
  rcases lt_trichotomy k pos with h | rfl | h
  · simp [h, h.ne]
  · cases b <;> simp [hpos]
  · have hk : k - pos ≠ 0 := by omega
    cases b <;> simp [h.ne', BitVec.getLsbD_one, hk]

/-- A drive code at its position. -/
def driveAt (drive : BitVec 2) (pos : Nat) : Byte := drive.setWidth 8 <<< pos

/-- A drive code shows at its position and the one above it alone. -/
theorem getLsbD_driveAt (drive : BitVec 2) {pos : Nat} (hpos : pos < 7) (k : Nat) :
    (driveAt drive pos).getLsbD k =
      (decide (k = pos) && drive.getLsbD 0 || decide (k = pos + 1) && drive.getLsbD 1) := by
  rw [driveAt, BitVec.getLsbD_shiftLeft]
  rcases lt_or_ge k pos with h | h
  · simp [h, h.ne, (h.trans (Nat.lt_succ_self pos)).ne]
  · obtain ⟨j, rfl⟩ := Nat.exists_eq_add_of_le h
    match j with
    | 0 => simp [show pos < 8 by omega]
    | 1 => simp [show pos + 1 < 8 by omega]
    | j + 2 => simp

theorem getLsbD_bitMask {pos : Nat} (hpos : pos < 8) (k : Nat) :
    (CtrlLayout.bitMask pos).getLsbD k = decide (k = pos) :=
  getLsbD_bitAt true hpos k

theorem getLsbD_driveMask {pos : Nat} (hpos : pos < 7) (k : Nat) :
    (CtrlLayout.driveMask pos).getLsbD k = (decide (k = pos) || decide (k = pos + 1)) :=
  (getLsbD_driveAt 3 hpos k).trans (by simp)

/-- The bits of the clock-control byte that belong to a field. -/
def fieldBits (l : CtrlLayout) : List Nat := [l.posInt, l.posSrc, l.posInv, l.posDrv, l.posDrv + 1]

/-- R70: the fields lie in the byte, no two share a bit, and `CTRL_CONST` has none of their bits. -/
structure FieldsSeparate (l : CtrlLayout) : Prop where
  posInt_lt : l.posInt < 8
  posSrc_lt : l.posSrc < 8
  posInv_lt : l.posInv < 8
  posDrv_lt : l.posDrv < 7
  nodup : (fieldBits l).Nodup
  const_eq_false : ∀ k ∈ fieldBits l, l.const.getLsbD k = false

/-- Bytes that do not overlap have no bit in common. -/
theorem getLsbD_eq_false_of_and_eq_zero {x y : Byte} (h : x &&& y = 0) {k : Nat} (hx : x.getLsbD k = true) :
    y.getLsbD k = false := by
  have hk := congrArg (BitVec.getLsbD · k) h
  simpa [hx] using hk

/-- A one-bit field whose mask overlaps a byte nowhere has its position where that byte has 0. -/
theorem getLsbD_eq_false_of_bitMask_and {pos : Nat} (hpos : pos < 8) {y : Byte} (h : CtrlLayout.bitMask pos &&& y = 0) :
    y.getLsbD pos = false :=
  getLsbD_eq_false_of_and_eq_zero h (by simp [getLsbD_bitMask hpos])

/-- What R70's check of the masks says of the bits. -/
theorem fieldsSeparate_of_disjoint {l : CtrlLayout} (h : l.disjoint = true) : FieldsSeparate l := by
  simp only [CtrlLayout.disjoint, Bool.and_eq_true, decide_eq_true_eq, beq_iff_eq] at h
  obtain ⟨⟨⟨⟨⟨⟨⟨⟨⟨⟨hi, hs⟩, hv⟩, hd⟩, his⟩, hiv⟩, hid⟩, hsv⟩, hsd⟩, hvd⟩, hconst⟩ := h
  refine ⟨hi, hs, hv, hd, ?_, fun k hk => ?_⟩
  · have hint := And.intro (getLsbD_eq_false_of_bitMask_and hi his) <|
      And.intro (getLsbD_eq_false_of_bitMask_and hi hiv) (getLsbD_eq_false_of_bitMask_and hi hid)
    have hsrc := And.intro (getLsbD_eq_false_of_bitMask_and hs hsv) (getLsbD_eq_false_of_bitMask_and hs hsd)
    have hinv := getLsbD_eq_false_of_bitMask_and hv hvd
    simp only [getLsbD_bitMask, getLsbD_driveMask, hs, hv, hd, decide_eq_false_iff_not,
      Bool.or_eq_false_iff] at hint hsrc hinv
    simp [fieldBits, hint, hsrc, hinv]
  · rw [BitVec.and_comm] at hconst
    refine getLsbD_eq_false_of_and_eq_zero hconst ?_
    simpa [fieldBits, getLsbD_bitMask, getLsbD_driveMask, hi, hs, hv, hd, or_assoc] using hk

theorem fieldsSeparate_of_platform (p : Platform) : FieldsSeparate p.params.layout := by
  have h := p.wellFormed
  simp only [PlatformParams.wellFormed, Bool.and_eq_true] at h
  exact fieldsSeparate_of_disjoint h.2

/-- R70's formula. -/
theorem ctrlOf_eq (l : CtrlLayout) (intb src inv : Bool) (drive : BitVec 2) :
    ctrlOf l intb src inv drive =
      l.const ||| bitAt intb l.posInt ||| bitAt src l.posSrc ||| bitAt inv l.posInv ||| driveAt drive l.posDrv := rfl

/-- R70's formula, bit by bit. -/
theorem getLsbD_ctrlOf {l : CtrlLayout} (hl : FieldsSeparate l) (intb src inv : Bool) (drive : BitVec 2) (k : Nat) :
    (ctrlOf l intb src inv drive).getLsbD k =
      (l.const.getLsbD k || intb && decide (k = l.posInt) || src && decide (k = l.posSrc)
        || inv && decide (k = l.posInv)
        || (decide (k = l.posDrv) && drive.getLsbD 0 || decide (k = l.posDrv + 1) && drive.getLsbD 1)) := by
  simp only [ctrlOf_eq, BitVec.getLsbD_or, getLsbD_bitAt _ hl.posInt_lt, getLsbD_bitAt _ hl.posSrc_lt,
    getLsbD_bitAt _ hl.posInv_lt, getLsbD_driveAt _ hl.posDrv_lt]

/-- Settles O36: at a bit of one field the other terms of R70's formula are 0, elsewhere all but `CTRL_CONST` are. -/
theorem controlByteFields : Obligations.ControlByteFields := by
  rintro p l intb src inv drive rfl
  have hl := fieldsSeparate_of_platform p
  have hne := hl.nodup
  have hconst := hl.const_eq_false
  simp only [fieldBits, List.nodup_cons, List.mem_cons, List.not_mem_nil, or_false, not_or, forall_eq_or_imp,
    forall_eq] at hne hconst
  obtain ⟨cint, csrc, cinv, cdrv0, cdrv1⟩ := hconst
  obtain ⟨⟨his, hiv, hid, hid'⟩, ⟨hsv, hsd, hsd'⟩, ⟨hvd, hvd'⟩, -⟩ := hne
  simp only [getLsbD_ctrlOf hl]
  refine ⟨?_, ?_, ?_, ?_, ?_, ?_⟩
  · simp [cint, his, hiv, hid, hid']
  · simp [csrc, Ne.symm his, hsv, hsd, hsd']
  · simp [cinv, Ne.symm hiv, Ne.symm hsv, hvd, hvd']
  · simp [cdrv0, Ne.symm hid, Ne.symm hsd, Ne.symm hvd]
  · simp [cdrv1, Ne.symm hid', Ne.symm hsd', Ne.symm hvd']
  · intro k hint hsrc hinv hdrv hdrv'
    simp [hint, hsrc, hinv, hdrv, hdrv']

/-! ## The output-enable and phase bytes (R71, R72) -/

/-- R71: the output-enable byte is the complement. -/
theorem oeByte_eq_not (mask : Byte) : oeByte mask = ~~~mask := BitVec.allOnes_sub_eq_not mask

/-- R72: the phase byte is the low seven bits, as a number. -/
theorem toNat_phaseByte (phase : Byte) : (phaseByte phase).toNat = phase.toNat % 128 := by
  rw [phaseByte, BitVec.toNat_and]
  exact Nat.and_two_pow_sub_one_eq_mod phase.toNat 7

/-- Settles O35: the complement as a number and bit by bit, and the phase byte. -/
theorem outputEnableAndPhaseBytes : Obligations.OutputEnableAndPhaseBytes := by
  refine ⟨fun m => ?_, toNat_phaseByte⟩
  rw [oeByte_eq_not]
  exact ⟨BitVec.toNat_not, fun i hi => by simp [hi]⟩

end Sys2Proof.Machine
end

section
/-! SUPPORT. Proofs for spec/40_planner.md, the arithmetic: clamping (R91), the correction (R92), the reduction (R94), the
quadrature ladder (R102) and the error of a divided PLL (R98, R103, R104). -/

namespace Sys2Proof.Machine

/-! ## Clamping (R91) -/

/-- R13: at or below the lower bound the clamp answers the lower bound. -/
theorem clamp_of_le_lo {v lo hi : Nat} (hlohi : lo ≤ hi) (h : v ≤ lo) : clamp v lo hi = lo := by
  unfold clamp; split_ifs <;> omega

/-- R13: at or above the upper bound the clamp answers the upper bound. -/
theorem clamp_of_hi_le {v lo hi : Nat} (hlohi : lo ≤ hi) (h : hi ≤ v) : clamp v lo hi = hi := by
  unfold clamp; split_ifs <;> omega

/-! ## The correction (R92) -/

/-- R92 for a positive correction: all operands are naturals, where `tdiv` is the floor. -/
theorem correct_natCast (f k : Nat) : correct f k = (f : Int) - ((f / 1000000 * k / 100 : Nat) : Int) := rfl

/-- R92 for a negative correction: `tdiv` keeps the magnitude of the shift and takes its sign (R11). -/
theorem correct_neg_natCast (f k : Nat) : correct f (-k) = (f : Int) + ((f / 1000000 * k / 100 : Nat) : Int) := by
  rw [correct, mul_neg, tdiv_neg_left, sub_neg_eq_add]
  rfl

/-- Settles O13: one equation per sign of the correction. -/
theorem correctionShiftsByTruncatedAmount : Obligations.CorrectionShiftsByTruncatedAmount := by
  intro f c
  constructor <;> intro hc
  · obtain ⟨k, rfl⟩ := Int.eq_ofNat_of_zero_le hc
    exact correct_natCast f k
  · obtain ⟨k, rfl⟩ := Int.exists_eq_neg_ofNat hc
    rw [Int.natAbs_neg]
    exact correct_neg_natCast f k

/-! ## The reduction (R94) -/

/-- R90: a fraction the device can hold, its denominator in 20 bits and its numerator at most the denominator. -/
def FractionFits (num den : Nat) : Prop := 1 ≤ den ∧ den ≤ 2 ^ 20 - 1 ∧ num ≤ den

/-- R94 (i), (ii): `t` exceeds `d / 2 ^ 20`, so `d / t` is below `2 ^ 20`; and `t ≤ d`, since `d` is not 0, so it is at
least 1. -/
theorem reduce_fits {r d : Nat} (hr : r < d) : FractionFits (reduce r d).1 (reduce r d).2 := by
  have hpos : 1 ≤ d / (d / 2 ^ 20 + 1) := Nat.div_pos (by omega) (by omega)
  have hlt : d / (d / 2 ^ 20 + 1) < 2 ^ 20 := Nat.div_lt_of_lt_mul (by omega)
  exact ⟨hpos, by simp only [reduce]; omega, Nat.div_le_div_right hr.le⟩

/-- R94 (iii): the numerator, at most the denominator, reaches it exactly when `r` holds that many `t`. -/
theorem reduce_fst_eq_snd_iff {r d : Nat} (hr : r < d) :
    (reduce r d).1 = (reduce r d).2 ↔ (reduce r d).2 * (d / 2 ^ 20 + 1) ≤ r := by
  obtain ⟨-, -, hle⟩ := reduce_fits hr
  calc (reduce r d).1 = (reduce r d).2
      ↔ (reduce r d).2 ≤ r / (d / 2 ^ 20 + 1) := ⟨fun h => h.ge, fun h => le_antisymm hle h⟩
    _ ↔ (reduce r d).2 * (d / 2 ^ 20 + 1) ≤ r := Nat.le_div_iff_mul_le (Nat.succ_pos _)

/-- R94 (iv): a denominator within 20 bits is not reduced. -/
theorem reduce_of_lt {d : Nat} (r : Nat) (h : d < 2 ^ 20) : reduce r d = (r, d) := by
  simp only [reduce, Nat.div_eq_of_lt h, Nat.zero_add, Nat.div_one]

/-- R98: over the crystal frequency `t` is 24 and the denominator 1041666. -/
theorem reduce_crystal (r : Nat) : reduce r 25000000 = (r / 24, 1041666) := rfl

/-- Settles O14: R94's four properties, each a lemma above. -/
theorem reductionBounds : Obligations.ReductionBounds := by
  intro r d _ hr
  obtain ⟨hpos, hle, hnum⟩ := reduce_fits hr
  exact ⟨hpos, hle, hnum, reduce_fst_eq_snd_iff hr, reduce_of_lt r⟩

/-! ## The quadrature ladder (R102) -/

/-- R102: the three rungs. -/
theorem iqDiv_cases (F : Nat) :
    (F < 4900000 ∧ iqDiv F = 127) ∨ (4900000 ≤ F ∧ F < 8000000 ∧ iqDiv F = 625000000 / F) ∨
      (8000000 ≤ F ∧ iqDiv F = 900000000 / F) := by
  unfold iqDiv; split_ifs <;> omega

/-- R102: on no rung is the divider above 127. -/
theorem iqDiv_le (F : Nat) : iqDiv F ≤ 127 := by
  rcases iqDiv_cases F with ⟨-, h⟩ | ⟨hlo, -, h⟩ | ⟨hlo, h⟩ <;> rw [h]
  · exact Nat.lt_succ_iff.mp (Nat.div_lt_of_lt_mul (by omega))
  · exact Nat.lt_succ_iff.mp (Nat.div_lt_of_lt_mul (by omega))

/-- R102: the divider is at least `k` while `k * F` is within 900 MHz. The second rung alone asks for `k ≤ 78`: there `F` is below
8 MHz, and `78 * F` below 625 MHz. -/
theorem le_iqDiv {k F : Nat} (hk : k ≤ 78) (hF : 0 < F) (h : k * F ≤ 900000000) : k ≤ iqDiv F := by
  rcases iqDiv_cases F with ⟨-, hd⟩ | ⟨-, hhi, hd⟩ | ⟨-, hd⟩ <;> rw [hd]
  · omega
  · have hkF : k * F ≤ 78 * F := Nat.mul_le_mul_right F hk
    exact (Nat.le_div_iff_mul_le hF).mpr (by omega)
  · exact (Nat.le_div_iff_mul_le hF).mpr h

/-- Settles O22: 127 bounds every rung, and `900000000 / F` is 0 exactly where `F` is above 900 MHz. -/
theorem quadratureDividerRange : Obligations.QuadratureDividerRange := by
  intro F
  refine ⟨fun hF hle => ⟨le_iqDiv (by omega) hF (by omega), iqDiv_le F⟩, fun hF => ?_⟩
  rcases iqDiv_cases F with ⟨hlt, -⟩ | ⟨-, hlt, -⟩ | ⟨-, h⟩
  · omega
  · omega
  · rw [h, Nat.div_eq_of_lt hF]

/-! ## Case A and Case B (R97, R98) -/

/-- R97: below 81 MHz Case A's divider is at least 11. -/
theorem le_caseA_div {F : Nat} (r : BitVec 3) (hF : 0 < F) (h : F < 81000000) : 11 ≤ (caseA F r).2.div :=
  (Nat.le_div_iff_mul_le hF).mpr (by omega)

/-- R98: Case B's divider is one of three. -/
theorem ladderB_cases (F : Nat) : ladderB F = 4 ∨ ladderB F = 6 ∨ ladderB F = 8 := by
  unfold ladderB; split_ifs <;> simp

/-- R98, R103: Case B is PLANIQ's multiplier with the divider of Case B's own ladder. -/
theorem caseB_eq (F : Nat) (r : BitVec 3) : caseB F r = (iqPll F (ladderB F), ⟨ladderB F, 0, 1, r, true⟩) := by
  simp only [caseB, iqPll, reduce_crystal, Nat.mul_comm]

/-- R103: the fraction of the PLL multiplier fits, since 24 * 1041666 falls short of 25 MHz by less than 24. -/
theorem iqPll_fits (F d : Nat) : FractionFits (iqPll F d).num (iqPll F d).denom := by
  simp only [FractionFits, iqPll]; omega

/-- An integer divider's fraction fits. -/
theorem zero_one_fits : FractionFits 0 1 := by unfold FractionFits; decide

/-! ## The error of a divided PLL (R104) -/

/-- R103: the PLL multiplier loses up to 23 Hz to the floor by 24, and gains up to 16 Hz, since the denominator 1041666 stands for
25 MHz with 16 Hz left over. -/
theorem abs_pllFrequency_iqPll_sub_le (F d : Nat) : |pllFrequency (iqPll F d) - (F : ℚ) * d| ≤ 23 := by
  obtain ⟨a, b, s, hs, hb, hn, hpll⟩ : ∃ a b s : Nat, s ≤ 23 ∧ b ≤ 1041666 ∧ F * d = 25000000 * a + 24 * b + s ∧
      iqPll F d = ⟨a, b, 1041666⟩ :=
    ⟨F * d / 25000000, F * d % 25000000 / 24, F * d % 25000000 % 24, by omega, by omega, by omega, rfl⟩
  have hs' : (s : ℚ) ≤ 23 := by exact_mod_cast hs
  have hb' : (b : ℚ) ≤ 1041666 := by exact_mod_cast hb
  have hn' : (F : ℚ) * d = 25000000 * a + 24 * b + s := by exact_mod_cast hn
  have hs0 : (0 : ℚ) ≤ s := s.cast_nonneg
  have hb0 : (0 : ℚ) ≤ b := b.cast_nonneg
  rw [hpll, pllFrequency, hn', abs_le]
  push_cast
  constructor <;> linarith

/-- R104 for an integer output divider without a post-divider: the PLL's frequency over the divider. -/
theorem recon_integerDivider (pc : PllConfig) (x : Nat) (ai : Bool) :
    recon pc ⟨x, 0, 1, 0, ai⟩ = pllFrequency pc / x := by
  simp [recon]

/-- The PLL's error of at most 23 Hz reaches the output divided by `x`, so a divider of `k` or more leaves at most `23 / k` Hz. -/
theorem abs_recon_iqPll_sub_le {F x k : Nat} (ai : Bool) (hk : 0 < k) (hx : k ≤ x) :
    |recon (iqPll F x) ⟨x, 0, 1, 0, ai⟩ - (F : ℚ)| ≤ 23 / k := by
  have hk' : (0 : ℚ) < k := by exact_mod_cast hk
  have hx' : (k : ℚ) ≤ x := by exact_mod_cast hx
  have hx0 : (0 : ℚ) < x := hk'.trans_le hx'
  calc |recon (iqPll F x) ⟨x, 0, 1, 0, ai⟩ - (F : ℚ)|
      = |pllFrequency (iqPll F x) - (F : ℚ) * x| / x := by
        rw [recon_integerDivider, div_sub' hx0.ne', abs_div, abs_of_pos hx0, mul_comm (x : ℚ)]
    _ ≤ 23 / k := div_le_div₀ (by norm_num) (abs_pllFrequency_iqPll_sub_le F x) hk' hx'

/-- Settles O25: the ladder's smallest divider is 4, and 23 / 4 is under 6. -/
theorem caseBErrorUnderSixHertz : Obligations.CaseBErrorUnderSixHertz := by
  intro F _
  have hx : 4 ≤ ladderB F := by rcases ladderB_cases F with h | h | h <;> omega
  rw [caseB_eq]
  exact (abs_recon_iqPll_sub_le true (by norm_num) hx).trans_lt (by norm_num)

/-- Settles O26: up to 100 MHz the quadrature divider is at least 9. -/
theorem planiqErrorBound : Obligations.PlaniqErrorBound := by
  intro F hF hle
  have hd : 9 ≤ iqDiv F := le_iqDiv (by omega) hF (by omega)
  exact_mod_cast abs_recon_iqPll_sub_le false (by norm_num) hd

/-- Refutes O24: at f = 80999969 (conflict C4) PLAN answers the divider 11 + 115388 / 1038461, over 6.8 Hz too fast. -/
theorem not_planErrorWithinSixHertz : ¬ Obligations.PlanErrorWithinSixHertz := by
  intro h
  have hplan : planBody 0 80999969 = .ok (⟨36, 0, 1⟩, ⟨11, 115388, 1038461, 0, true⟩) := by decide
  have hfast : 6 < recon ⟨36, 0, 1⟩ ⟨11, 115388, 1038461, 0, true⟩ - (80999969 : Nat) := by
    norm_num [recon, pllFrequency, show BitVec.toNat (0 : BitVec 3) = 0 from rfl]
  have hbound := h 80999969 _ _ (by norm_num) (by norm_num) hplan
  exact absurd ((le_abs_self _).trans hbound) hfast.not_ge

end Sys2Proof.Machine
end

section
/-! SUPPORT. Proofs for spec/40_planner.md, the commands: what the planners' bodies answer, what PLAN and PLANIQ make of it (R91 to
R103), and the quadrature pair (R105, R154, R199). -/

namespace Sys2Proof.Machine

/-! ## The planners' bodies (R95, R101) -/

/-- PLAN's configurations for a corrected frequency: the case is chosen on it (R97, R98). -/
def planConfigs (F : Nat) (r : BitVec 3) : PllConfig × OutputConfig :=
  if F < 81000000 then caseA F r else caseB F r

/-- R97: below 81 MHz it is Case A. -/
theorem planConfigs_of_lt {F : Nat} {r : BitVec 3} (h : F < 81000000) : planConfigs F r = caseA F r := if_pos h

/-- R98: from 81 MHz on it is Case B. -/
theorem planConfigs_of_le {F : Nat} {r : BitVec 3} (h : 81000000 ≤ F) : planConfigs F r = caseB F r := if_neg h.not_gt

/-- PLANIQ's configurations for a corrected frequency (R101). -/
def iqConfigs (F : Nat) : PllConfig × OutputConfig := (iqPll F (iqDiv F), ⟨iqDiv F, 0, 1, 0, false⟩)

/-- R93, R95: PLAN outside the planning domain. -/
theorem planBody_of_nonpos {corr : Int} {f : Nat} (h : correct (prescale (clamp f 8000 160000000)).1 corr ≤ 0) :
    planBody corr f = .error .planDomain := if_pos h

/-- R95: PLAN inside the planning domain. -/
theorem planBody_of_pos {corr : Int} {f F : Nat} (hF : 0 < F)
    (h : correct (prescale (clamp f 8000 160000000)).1 corr = (F : Int)) :
    planBody corr f = .ok (planConfigs F (prescale (clamp f 8000 160000000)).2) := by
  have hpos : ¬ (F : Int) ≤ 0 := by omega
  have hcase : (F : Int) < 81000000 ↔ F < 81000000 := by omega
  simp only [planBody, h, if_neg hpos, hcase, Int.toNat_natCast, planConfigs]
  split_ifs <;> rfl

/-- R93, R101: PLANIQ outside the planning domain. -/
theorem planIqBody_of_nonpos {corr : Int} {f : Nat} (h : correct (clamp f 1400000 100000000) corr ≤ 0) :
    planIqBody corr f = .error .planDomain := if_pos h

/-- R101: PLANIQ inside the planning domain. -/
theorem planIqBody_of_pos {corr : Int} {f F : Nat} (hF : 0 < F)
    (h : correct (clamp f 1400000 100000000) corr = (F : Int)) : planIqBody corr f = .ok (iqConfigs F) := by
  have hpos : ¬ (F : Int) ≤ 0 := by omega
  simp only [planIqBody, h, if_neg hpos, Int.toNat_natCast, iqConfigs]

/-- A corrected frequency is outside the planning domain, or a positive natural. -/
theorem nonpos_or_eq_natCast (g : Int) : g ≤ 0 ∨ ∃ F : Nat, 0 < F ∧ g = (F : Int) := by
  rcases le_or_gt g 0 with h | h
  · exact .inl h
  · exact .inr ⟨g.toNat, by omega, by omega⟩

/-- Whatever PLAN plans is planned for a positive frequency. -/
theorem exists_planConfigs_of_planBody {corr : Int} {f : Nat} {out : PllConfig × OutputConfig}
    (h : planBody corr f = .ok out) : ∃ F r, 0 < F ∧ out = planConfigs F r := by
  rcases nonpos_or_eq_natCast (correct (prescale (clamp f 8000 160000000)).1 corr) with hg | ⟨F, hF, hg⟩
  · rw [planBody_of_nonpos hg] at h; cases h
  · rw [planBody_of_pos hF hg] at h; cases h
    exact ⟨F, _, hF, rfl⟩

/-- Whatever PLANIQ plans is planned for a positive frequency. -/
theorem exists_iqConfigs_of_planIqBody {corr : Int} {f : Nat} {out : PllConfig × OutputConfig}
    (h : planIqBody corr f = .ok out) : ∃ F, 0 < F ∧ out = iqConfigs F := by
  rcases nonpos_or_eq_natCast (correct (clamp f 1400000 100000000) corr) with hg | ⟨F, hF, hg⟩
  · rw [planIqBody_of_nonpos hg] at h; cases h
  · rw [planIqBody_of_pos hF hg] at h; cases h
    exact ⟨F, hF, rfl⟩

/-! ## The commands (R95, R101) -/

/-- PLAN concludes with its planner's answer (R95). -/
theorem exec_plan_eq (f : Word) (s : State) :
    exec (.plan f) s = .next (s.conclude (planResult s.corrValid (planBody s.corrInt f.toNat))) := rfl

/-- PLANIQ concludes with its planner's answer (R101). -/
theorem exec_planiq_eq (f : Word) (s : State) :
    exec (.planiq f) s = .next (s.conclude (planResult s.corrValid (planIqBody s.corrInt f.toNat))) := rfl

/-- Once initialised, planned configurations go on the port with status OK. -/
theorem conclude_planResult_ok {v : Bool} (hv : v = true) (out : PllConfig × OutputConfig) (s : State) :
    s.conclude (planResult v (.ok out)) = { s with result := some ⟨.ok, .configs out.1 out.2⟩ } := by
  subst hv; rfl

/-- Once initialised, a planner's fault is raised. -/
theorem conclude_planResult_error {v : Bool} (hv : v = true) (c : FaultCode) (s : State) :
    s.conclude (planResult v (.error c)) = s.raise c := by
  subst hv; rfl

/-- Configurations on the port are the planner's answer: every other end raises a fault, which empties the port. -/
theorem eq_ok_of_conclude_planResult {s : State} {v : Bool} {body : Except FaultCode (PllConfig × OutputConfig)}
    {pc : PllConfig} {mc : OutputConfig}
    (h : (s.conclude (planResult v body)).result = some ⟨.ok, .configs pc mc⟩) : body = .ok (pc, mc) := by
  cases v with
  | false => cases h
  | true =>
    cases body with
    | error c => cases h
    | ok out => cases h; rfl

/-- What PLAN leaves on the port was planned for a positive frequency. -/
theorem exists_planConfigs_of_exec {f : Word} {s t : State} {pc : PllConfig} {mc : OutputConfig}
    (h : exec (.plan f) s = .next t) (hres : t.result = some ⟨.ok, .configs pc mc⟩) :
    ∃ F r, 0 < F ∧ (pc, mc) = planConfigs F r := by
  obtain rfl := Host.Outcome.next.inj ((exec_plan_eq f s).symm.trans h)
  exact exists_planConfigs_of_planBody (eq_ok_of_conclude_planResult hres)

/-- What PLANIQ leaves on the port was planned for a positive frequency. -/
theorem exists_iqConfigs_of_exec {f : Word} {s t : State} {pc : PllConfig} {mc : OutputConfig}
    (h : exec (.planiq f) s = .next t) (hres : t.result = some ⟨.ok, .configs pc mc⟩) :
    ∃ F, 0 < F ∧ (pc, mc) = iqConfigs F := by
  obtain rfl := Host.Outcome.next.inj ((exec_planiq_eq f s).symm.trans h)
  exact exists_iqConfigs_of_planIqBody (eq_ok_of_conclude_planResult hres)

/-- R96: the prescale in the form of its test. -/
theorem prescale_eq (f : Nat) :
    prescale f = (if f < 1000000 then f * 64 else f, if f < 1000000 then 6 else 0) := by
  unfold prescale; split_ifs <;> rfl

/-- Settles O15: inside the planning domain PLAN's body answers Case A or Case B. -/
theorem planCompletes : Obligations.PlanCompletes := by
  rintro f s _ F _ _ hcv rfl rfl hg hF rfl
  have hbody := planBody_of_pos (f := f.toNat) hF (by rw [prescale_eq]; exact hg)
  rw [exec_plan_eq, hbody, conclude_planResult_ok hcv, prescale_eq]
  rcases lt_or_ge F 81000000 with hlt | hge
  · rw [planConfigs_of_lt hlt, if_pos hlt]
    rfl
  · rw [planConfigs_of_le hge, if_neg hge.not_gt]
    rfl

/-- Settles O16: inside the planning domain PLANIQ's body answers the quadrature divider and multiplier. -/
theorem planiqCompletes : Obligations.PlaniqCompletes := by
  rintro f s F _ hcv hg hF rfl
  rw [exec_planiq_eq, planIqBody_of_pos hF hg, conclude_planResult_ok hcv]
  rfl

/-- R93, R152: SETUP of a supported channel ends with the fault of PLAN's body. -/
theorem setupWrites_of_planBody_error {corr : Int} {ch : Byte} {f : Nat} {x : Channel × Pll} {c : FaultCode} (p : Platform)
    (drive : BitVec 2) (hch : setupChannel ch = some x) (h : planBody corr f = .error c) :
    setupWrites p true corr ch f drive = .error (.fault c) := by
  simp only [setupWrites, hch, h, if_true]

/-- Settles O17: each of the three commands raises the fault of its planner's body. -/
theorem plannersFaultOutsideDomain : Obligations.PlannersFaultOutsideDomain := by
  refine ⟨fun f s hcv hg => ?_, fun f s hcv hg => ?_, fun ch f drive s hcv hch hg => ?_⟩ <;>
    refine ⟨s.raise .planDomain, ?_, raise_onlyFault _ s⟩
  · rw [exec_plan_eq, planBody_of_nonpos hg, conclude_planResult_error hcv]
  · rw [exec_planiq_eq, planIqBody_of_nonpos hg, conclude_planResult_error hcv]
  · obtain ⟨x, hx⟩ : ∃ x, setupChannel ch = some x := by
      obtain rfl | rfl := hch
      · exact ⟨_, rfl⟩
      · exact ⟨_, rfl⟩
    rw [exec, execSetup, hcv, setupWrites_of_planBody_error _ _ hx (planBody_of_nonpos hg)]
    rfl

/-- R91: PLAN looks at its operand through the clamp alone. -/
theorem exec_plan_congr {f g : Word} (s : State) (h : clamp f.toNat 8000 160000000 = clamp g.toNat 8000 160000000) :
    exec (.plan f) s = exec (.plan g) s := by
  rw [exec_plan_eq, exec_plan_eq, planBody, planBody, h]

/-- R91: PLANIQ looks at its operand through the clamp alone. -/
theorem exec_planiq_congr {f g : Word} (s : State)
    (h : clamp f.toNat 1400000 100000000 = clamp g.toNat 1400000 100000000) :
    exec (.planiq f) s = exec (.planiq g) s := by
  rw [exec_planiq_eq, exec_planiq_eq, planIqBody, planIqBody, h]

/-- Settles O19: a frequency out of range and the nearest bound have the same clamp. -/
theorem clampIsSilent : Obligations.ClampIsSilent := by
  refine fun f s => ⟨fun h => exec_plan_congr s ?_, fun h => exec_plan_congr s ?_, fun h => exec_planiq_congr s ?_,
    fun h => exec_planiq_congr s ?_⟩
  · exact clamp_of_le_lo (by norm_num) h
  · exact clamp_of_hi_le (by norm_num) h
  · exact clamp_of_le_lo (by norm_num) h
  · exact clamp_of_hi_le (by norm_num) h

/-! ## What the configurations keep (R90, R97 to R99, R105) -/

/-- R90, R94: both of PLAN's fractions fit. -/
theorem planConfigs_fits {F : Nat} (r : BitVec 3) (hF : 0 < F) :
    FractionFits (planConfigs F r).1.num (planConfigs F r).1.denom ∧
      FractionFits (planConfigs F r).2.y (planConfigs F r).2.z := by
  rcases lt_or_ge F 81000000 with hlt | hge
  · rw [planConfigs_of_lt hlt]
    exact ⟨zero_one_fits, reduce_fits (Nat.mod_lt _ hF)⟩
  · rw [planConfigs_of_le hge, caseB_eq]
    exact ⟨iqPll_fits F _, zero_one_fits⟩

/-- Settles O20: both planners' fractions fit, whatever the frequency. -/
theorem plannedFractionsBounded : Obligations.PlannedFractionsBounded := by
  intro f s t i pc mc hi h hres
  have hfits : FractionFits pc.num pc.denom ∧ FractionFits mc.y mc.z := by
    simp only [List.mem_cons, List.not_mem_nil, or_false] at hi
    obtain rfl | rfl := hi
    · obtain ⟨F, r, hF, hout⟩ := exists_planConfigs_of_exec h hres
      obtain ⟨rfl, rfl⟩ := Prod.mk.inj hout
      exact planConfigs_fits r hF
    · obtain ⟨F, -, hout⟩ := exists_iqConfigs_of_exec h hres
      obtain ⟨rfl, rfl⟩ := Prod.mk.inj hout
      exact ⟨iqPll_fits F _, zero_one_fits⟩
  obtain ⟨⟨hden, hden', hnum⟩, hz, hz', hy⟩ := hfits
  exact ⟨hden, hden', hnum, hz, hz', hy⟩

/-- Settles O21: the two shapes are Case A below 81 MHz and Case B from there on. -/
theorem planResultShapes : Obligations.PlanResultShapes := by
  intro f s t pc mc h hres
  obtain ⟨F, r, hF, hout⟩ := exists_planConfigs_of_exec h hres
  rcases lt_or_ge F 81000000 with hlt | hge
  · rw [planConfigs_of_lt hlt] at hout
    obtain ⟨rfl, rfl⟩ := Prod.mk.inj hout
    exact ⟨rfl, .inl ⟨rfl, le_caseA_div r hF hlt⟩⟩
  · rw [planConfigs_of_le hge, caseB_eq] at hout
    obtain ⟨rfl, rfl⟩ := Prod.mk.inj hout
    exact ⟨rfl, .inr ⟨rfl, ladderB_cases F, rfl, rfl⟩⟩

/-- Settles O23: the divider is at most 127, so neither the 32-bit operand, nor `mod 256`, nor the 7-bit mask changes it. -/
theorem quadratureCommandsFormPair : Obligations.QuadratureCommandsFormPair := by
  intro c f pc mc q c0 c1 drive inv h
  obtain ⟨F, -, hout⟩ := exists_iqConfigs_of_planIqBody h
  obtain ⟨rfl, rfl⟩ := Prod.mk.inj hout
  have hd : iqDiv F ≤ 127 := iqDiv_le F
  have hoperand : (BitVec.ofNat 32 (iqDiv F)).toNat = iqDiv F := by rw [BitVec.toNat_ofNat]; omega
  refine ⟨⟨_, _, _, rfl, rfl, rfl, rfl, rfl, rfl, rfl, rfl, rfl, rfl, ?_⟩, ?_⟩
  · rw [hoperand]
  · rw [toNat_phaseByte, BitVec.toNat_ofNat]
    change iqDiv F % 256 % 2 ^ 8 % 128 = iqDiv F
    omega

end Sys2Proof.Machine
end

section
/-! SUPPORT. Proofs for spec/41_encoder.md, the parameters: divider legality (R121), the integer-mode rules (R130, R131), the P values
(R123, R124, R128) and the image they are written in (R66, R68, R129). -/

namespace Sys2Proof.Machine

/-! ## Divider legality and the integer-mode rules (R121, R130, R131) -/

theorem legalDiv_iff (div y : Nat) (ai : Bool) :
    legalDiv div y ai = true ↔ 8 ≤ div ∨ (div = 4 ∧ ai = true) ∨ (div = 6 ∧ ai = true ∧ y = 0) := by
  unfold legalDiv
  split_ifs with h8 h4 h6
  · simp [h8]
  · simp [h4]
  · simp [h6]
  · simp [h8, h4, h6]

theorem intPll_iff (pc : PllConfig) : intPll pc = true ↔ pc.num = 0 ∧ pc.mult % 2 = 0 := by
  simp only [intPll, Bool.and_eq_true, decide_eq_true_eq]

/-- R131: `yEff` is 0 for the divider 4, whatever its fraction. -/
theorem intMs_iff (div y : Nat) (ai : Bool) :
    intMs div y ai = true ↔ ai = true ∧ (div = 4 ∨ y = 0) ∧ div % 2 = 0 := by
  have hyEff : (if div = 4 then 0 else y) = 0 ↔ div = 4 ∨ y = 0 := by split_ifs with h4 <;> simp [h4]
  simp only [intMs, Bool.and_eq_true, decide_eq_true_eq, hyEff, and_assoc]

/-- Settles O27: one equivalence per rule. -/
theorem dividerAndIntegerModeRules : Obligations.DividerAndIntegerModeRules :=
  ⟨legalDiv_iff, intPll_iff, intMs_iff⟩

/-! ## The P values (R123, R124) -/

/-- R123: the formula's P1 is not negative and lies in its 18-bit field. -/
def P1Fits (i n d : Nat) : Prop := 512 ≤ 128 * i + 128 * n / d ∧ 128 * i + 128 * n / d - 512 < 2 ^ 18

/-- R123: these P values are the formula's, as numbers. -/
structure PValues.HoldFormula (p : PValues) (i n d : Nat) : Prop where
  p1_eq : p.p1.toNat = 128 * i + 128 * n / d - 512
  p2_eq : p.p2.toNat = 128 * n - d * (128 * n / d)
  p3_eq : p.p3.toNat = d

/-- R124: a multisynth divider of 4. -/
theorem pvals_divideByFour (n d : Nat) : pvals 4 n d true = .ok ⟨0, 0, 1⟩ := if_pos ⟨rfl, rfl⟩

/-- R123: a fraction the device cannot hold is refused, and so is a P1 outside its field. -/
theorem pvals_eq_error {i n d : Nat} {ms : Bool} (hms : ¬(ms = true ∧ i = 4))
    (h : FractionFits n d → ¬P1Fits i n d) : pvals i n d ms = .error .paramRange := by
  rw [pvals, if_neg hms]
  by_cases hf : FractionFits n d
  · have hp1 := h hf
    obtain ⟨hd, hd', hn⟩ := hf
    rw [if_neg (by omega), if_pos (by unfold P1Fits at hp1; omega)]
  · exact if_pos (by unfold FractionFits at hf; omega)

/-- R123: in range the three values are the formula's, and each fits its field: P2 is the remainder of `128 * n` by `d`. -/
theorem exists_pvals_eq_ok {i n d : Nat} {ms : Bool} (hms : ¬(ms = true ∧ i = 4)) (hf : FractionFits n d)
    (hp1 : P1Fits i n d) : ∃ p, pvals i n d ms = .ok p ∧ p.HoldFormula i n d := by
  obtain ⟨hd, hd', hn⟩ := hf
  obtain ⟨hlo, hhi⟩ := hp1
  have hp1Int : 128 * (i : Int) + ((128 * n / d : Nat) : Int) - 512 = ((128 * i + 128 * n / d - 512 : Nat) : Int) := by
    omega
  have hp2 : 128 * n - d * (128 * n / d) < d := by
    rw [← Nat.mod_eq_sub_mul_div]
    exact Nat.mod_lt _ hd
  refine ⟨⟨BitVec.ofNat 18 (128 * i + 128 * n / d - 512), BitVec.ofNat 20 (128 * n - d * (128 * n / d)),
    BitVec.ofNat 20 d⟩, ?_, ?_, ?_, ?_⟩
  · simp only [pvals, if_neg hms, hp1Int, BitVec.ofInt_natCast]
    rw [if_neg (by omega), if_neg (by omega)]
  · exact Nat.mod_eq_of_lt hhi
  · exact Nat.mod_eq_of_lt (by omega)
  · exact Nat.mod_eq_of_lt (by omega)

/-- Everything `pvals` can do. -/
theorem pvals_cases (i n d : Nat) (ms : Bool) :
    ((ms = true ∧ i = 4) ∧ pvals i n d ms = .ok ⟨0, 0, 1⟩) ∨
    (¬(ms = true ∧ i = 4) ∧ (FractionFits n d → ¬P1Fits i n d) ∧ pvals i n d ms = .error .paramRange) ∨
    (¬(ms = true ∧ i = 4) ∧ FractionFits n d ∧ P1Fits i n d ∧ ∃ p, pvals i n d ms = .ok p ∧ p.HoldFormula i n d) := by
  by_cases hms : ms = true ∧ i = 4
  · obtain ⟨rfl, rfl⟩ := hms
    exact .inl ⟨⟨rfl, rfl⟩, pvals_divideByFour n d⟩
  · by_cases h : FractionFits n d ∧ P1Fits i n d
    · exact .inr (.inr ⟨hms, h.1, h.2, exists_pvals_eq_ok hms h.1 h.2⟩)
    · exact .inr (.inl ⟨hms, not_and.mp h, pvals_eq_error hms (not_and.mp h)⟩)

theorem pvals_eq_error_iff (i n d : Nat) (ms : Bool) :
    pvals i n d ms = .error .paramRange ↔ ¬(ms = true ∧ i = 4) ∧ (FractionFits n d → ¬P1Fits i n d) := by
  rcases pvals_cases i n d ms with ⟨hms, h⟩ | ⟨hms, hout, h⟩ | ⟨hms, hf, hp1, p, h, -⟩ <;> rw [h]
  · simp [hms]
  · exact iff_of_true rfl ⟨hms, hout⟩
  · simp [hf, hp1]

/-- R123: where the fraction fits, floor(128n/d) is at most 128, and it is 128 only for n = d; so P1 fits for `i` from 4 to 2050,
at 3 with n = d, and at 2051 with n < d. -/
theorem p1Fits_iff {n d : Nat} (hf : FractionFits n d) (i : Nat) :
    P1Fits i n d ↔ ¬(i ≤ 2 ∨ (i = 3 ∧ n < d) ∨ 2052 ≤ i ∨ (i = 2051 ∧ n = d)) := by
  obtain ⟨hd, -, hn⟩ := hf
  have hle : 128 * n / d ≤ 128 := Nat.div_le_of_le_mul (by omega)
  have hge : 128 ≤ 128 * n / d ↔ n = d := by rw [Nat.le_div_iff_mul_le hd]; omega
  unfold P1Fits
  generalize 128 * n / d = q at hle hge ⊢
  omega

/-- Settles O30: out of range is a fraction that does not fit, or, where it fits, an `i` for which P1 does not. -/
theorem pvalsRefusesExactly : Obligations.PvalsRefusesExactly := by
  intro i n d ms
  rw [pvals_eq_error_iff]
  refine and_congr_right fun _ => ?_
  by_cases hf : FractionFits n d
  · rw [imp_iff_right hf, p1Fits_iff hf, not_not]
    obtain ⟨hd, hd', hn⟩ := hf
    omega
  · have hout : d = 0 ∨ 2 ^ 20 - 1 < d ∨ d < n := by unfold FractionFits at hf; omega
    exact iff_of_true (fun h => absurd h hf) (by omega)

/-- R128: P2 is what the floor in P1 drops of `128 * n`, so the two together lose nothing. -/
theorem PValues.HoldFormula.ratio_eq {p : PValues} {i n d : Nat} (h : p.HoldFormula i n d) (hd : 1 ≤ d)
    (hp1 : P1Fits i n d) :
    ((p.p1.toNat : ℚ) + 512 + (p.p2.toNat : ℚ) / (p.p3.toNat : ℚ)) / 128 = (i : ℚ) + (n : ℚ) / (d : ℚ) := by
  have hd0 : (d : ℚ) ≠ 0 := by exact_mod_cast Nat.one_le_iff_ne_zero.mp hd
  have hsum : (p.p1.toNat : ℚ) + 512 = 128 * i + (128 * n / d : Nat) := by
    rw [h.p1_eq]; exact_mod_cast Nat.sub_add_cancel hp1.1
  have hrem : (d : ℚ) * (128 * n / d : Nat) + p.p2.toNat = 128 * n := by
    rw [h.p2_eq]; exact_mod_cast Nat.add_sub_cancel' (Nat.mul_div_le (128 * n) d)
  rw [hsum, h.p3_eq]
  field_simp
  linear_combination hrem

/-- Settles O32: outside the divide-by-4 mode by the formula, in it the three values are literals. -/
theorem pvaluesAreExact : Obligations.PvaluesAreExact := by
  intro i n d ms p hp
  rcases pvals_cases i n d ms with ⟨hms, h⟩ | ⟨-, -, h⟩ | ⟨hms, ⟨hd, -⟩, hp1, p', h, hform⟩ <;> cases h.symm.trans hp
  · exact ⟨fun hne => absurd hms hne, fun _ => by norm_num [BitVec.toNat_ofNat]⟩
  · exact ⟨fun _ => hform.ratio_eq hd hp1, fun h4 => absurd h4 hms⟩

/-! ## The image fields of a divider (R124 to R126) -/

theorem pMs_of_pvals_ok {mc : OutputConfig} {p : PValues} (h : pvals mc.div mc.y mc.z true = .ok p) :
    pMs mc = .ok (p, divBy4Code mc.div, mc.rdiv) := by rw [pMs, h]

theorem pMs_of_pvals_error {mc : OutputConfig} {c : FaultCode} (h : pvals mc.div mc.y mc.z true = .error c) :
    pMs mc = .error c := by rw [pMs, h]

theorem pPll_of_pvals_ok {pc : PllConfig} {p : PValues} (h : pvals pc.mult pc.num pc.denom false = .ok p) :
    pPll pc = .ok (p, 0b00, 0) := by rw [pPll, h]

theorem pPll_of_pvals_error {pc : PllConfig} {c : FaultCode} (h : pvals pc.mult pc.num pc.denom false = .error c) :
    pPll pc = .error c := by rw [pPll, h]

/-! ## The image (R66, R68, R129) -/

/-- R129: the fields read from an image, as numbers. -/
theorem toNat_unimg8 (b : Image) :
    (unimg8 b).1.p1.toNat = 2 ^ 16 * (b.b2.toNat % 4) + 2 ^ 8 * b.b3.toNat + b.b4.toNat ∧
      (unimg8 b).1.p2.toNat = 2 ^ 16 * (b.b5.toNat % 16) + 2 ^ 8 * b.b6.toNat + b.b7.toNat ∧
      (unimg8 b).1.p3.toNat = 2 ^ 16 * (b.b5.toNat / 16) + 2 ^ 8 * b.b0.toNat + b.b1.toNat ∧
      (unimg8 b).2.1.toNat = b.b2.toNat / 4 % 4 ∧ (unimg8 b).2.2.toNat = b.b2.toNat / 16 % 8 := by
  have h5 := b.b5.isLt
  simp only [unimg8, toNat_append_eq_add, toNat_extractLsb'_eq_div_mod]
  omega

theorem PValues.eq_of_toNat_eq {p q : PValues} (h1 : p.p1.toNat = q.p1.toNat) (h2 : p.p2.toNat = q.p2.toNat)
    (h3 : p.p3.toNat = q.p3.toNat) : p = q := by
  cases p
  cases q
  rw [PValues.mk.injEq]
  exact ⟨BitVec.eq_of_toNat_eq h1, BitVec.eq_of_toNat_eq h2, BitVec.eq_of_toNat_eq h3⟩

/-- R129: the fields of an image are read back whole, since each fits where it was written. -/
theorem unimg8_img8 (p : PValues) (d4 : BitVec 2) (rdiv : BitVec 3) : unimg8 (img8 p d4 rdiv) = (p, d4, rdiv) := by
  have hp1 := p.p1.isLt
  have hp2 := p.p2.isLt
  have hp3 := p.p3.isLt
  have hd4 := d4.isLt
  have hrdiv := rdiv.isLt
  obtain ⟨h0, h1, h2, h3, h4, h5, h6, h7⟩ := toNat_img8 p d4 rdiv
  obtain ⟨e1, e2, e3, e4, e5⟩ := toNat_unimg8 (img8 p d4 rdiv)
  have hp : (unimg8 (img8 p d4 rdiv)).1 = p := PValues.eq_of_toNat_eq (by omega) (by omega) (by omega)
  have hcode : (unimg8 (img8 p d4 rdiv)).2.1 = d4 := BitVec.eq_of_toNat_eq (by omega)
  have hpost : (unimg8 (img8 p d4 rdiv)).2.2 = rdiv := BitVec.eq_of_toNat_eq (by omega)
  exact Prod.ext hp (Prod.ext hcode hpost)

/-- R68: bit 7 of byte 2 is written 0, since the three fields below it fill seven bits. -/
theorem toNat_img8_b2_lt (p : PValues) (d4 : BitVec 2) (rdiv : BitVec 3) : (img8 p d4 rdiv).b2.toNat < 128 := by
  have hp1 := p.p1.isLt
  have hd4 := d4.isLt
  have hrdiv := rdiv.isLt
  obtain ⟨-, -, h2, -⟩ := toNat_img8 p d4 rdiv
  omega

/-- R129: the decoder reads bits 0 to 6 of byte 2 alone. -/
theorem unimg8_setBit7 (b : Image) : unimg8 { b with b2 := b.b2 ||| 0x80 } = unimg8 b := by
  have hfield (s m : Nat) (h : (0x80 : Byte).extractLsb' s m = 0#m) :
      (b.b2 ||| 0x80).extractLsb' s m = b.b2.extractLsb' s m := by
    rw [BitVec.extractLsb'_or, h, BitVec.or_zero]
  simp only [unimg8, hfield 0 2 rfl, hfield 2 2 rfl, hfield 4 3 rfl]

/-- Settles O34: the decoder as numbers undoes the encoder as numbers, and never looks at bit 7 of byte 2. -/
theorem imageRoundTrip : Obligations.ImageRoundTrip :=
  ⟨fun p d4 rdiv => ⟨unimg8_img8 p d4 rdiv, toNat_img8_b2_lt p d4 rdiv⟩, unimg8_setBit7⟩

end Sys2Proof.Machine
end

section
/-! SUPPORT. Proofs for spec/41_encoder.md, the commands: PCALC (R122 to R124), the divider check of CFGCH (R121, R141) and the
commands that raise ParamRange (R123, R127, R143, R172). -/

namespace Sys2Proof.Machine

/-! ## What the commands conclude or deliver (R122, R127, R141, R146, R152) -/

theorem exec_pcalc_eq (i n d : Word) (ms : Bool) (s : State) :
    exec (.pcalc i n d ms) s = .next (s.conclude (pcalcResult i.toNat n.toNat d.toNat ms)) := rfl

theorem exec_encode_eq (p1 p2 p3 : Word) (d4 : BitVec 2) (rdiv : BitVec 3) (s : State) :
    exec (.encode p1 p2 p3 d4 rdiv) s = .next (s.conclude (encodeResult p1 p2 p3 d4 rdiv)) := rfl

theorem exec_cfgch_eq (ch : Byte) (pll : Pll) (drive : BitVec 2) (inv : Bool) (div y z : Word) (rdiv : BitVec 3) (ai : Bool)
    (phase : Byte) (s : State) :
    exec (.cfgch ch pll drive inv div y z rdiv ai phase) s =
      .next (s.deliver (cfgchWrites s.platform ch pll drive inv ⟨div.toNat, y.toNat, z.toNat, rdiv, ai⟩ phase)) := rfl

theorem exec_cfgpll_eq (q : Pll) (mult num denom : Word) (s : State) :
    exec (.cfgpll q mult num denom) s =
      .next (s.deliver (cfgpllWrites s.platform q ⟨mult.toNat, num.toNat, denom.toNat⟩)) := rfl

theorem exec_setup_eq (ch : Byte) (f : Word) (drive : BitVec 2) (s : State) :
    exec (.setup ch f drive) s =
      .next (s.deliver (setupWrites s.platform s.corrValid s.corrInt ch f.toNat drive)) := rfl

/-! ## PCALC (R122 to R124) -/

theorem pcalcResult_of_pvals_ok {i n d : Nat} {ms : Bool} {p : PValues} (h : pvals i n d ms = .ok p) :
    pcalcResult i n d ms = .ok (.params p) := by rw [pcalcResult, h]

theorem pcalcResult_of_pvals_error {i n d : Nat} {ms : Bool} {c : FaultCode} (h : pvals i n d ms = .error c) :
    pcalcResult i n d ms = .error (.fault c) := by rw [pcalcResult, h]

/-- R122: PCALC puts the P values on the port. -/
theorem exec_pcalc_of_pvals_ok {i n d : Word} {ms : Bool} {p : PValues} (s : State)
    (h : pvals i.toNat n.toNat d.toNat ms = .ok p) :
    exec (.pcalc i n d ms) s = .next { s with result := some ⟨.ok, .params p⟩ } := by
  rw [exec_pcalc_eq, pcalcResult_of_pvals_ok h]
  rfl

/-- Settles O28: in range `pvals` answers the formula's values. -/
theorem pcalcCompletes : Obligations.PcalcCompletes := by
  rintro i n d ms s _ hms hd hd' hn rfl hlo hhi
  obtain ⟨p, hp, hform⟩ := exists_pvals_eq_ok hms ⟨hd, hd', hn⟩ ⟨hlo, hhi⟩
  exact ⟨p, exec_pcalc_of_pvals_ok s hp, hform.p1_eq, hform.p2_eq, hform.p3_eq⟩

/-- Settles O29: the divide-by-4 mode is the multisynth's alone; for a PLL multiplier of 4 P1 is floor(128n/d), which fits. -/
theorem pcalcDivideByFour : Obligations.PcalcDivideByFour := by
  have hpll : ¬(false = true ∧ 4 = 4) := by decide
  refine ⟨fun n d s => exec_pcalc_of_pvals_ok s (pvals_divideByFour _ _),
    fun y z rdiv ai => pMs_of_pvals_ok (pvals_divideByFour y z), fun n d h => ?_, fun n d hd hd' hn => ?_⟩
  · refine pPll_of_pvals_error (pvals_eq_error hpll fun (hf : FractionFits n d) => ?_)
    obtain ⟨hd, hd', hn⟩ := hf
    omega
  · have hf : FractionFits n d := ⟨hd, hd', hn⟩
    obtain ⟨p, hp, hform⟩ := exists_pvals_eq_ok hpll hf ((p1Fits_iff hf 4).mpr (by omega))
    exact ⟨p, pPll_of_pvals_ok hp, hform.p1_eq.trans (Nat.add_sub_cancel_left ..), hform.p2_eq, hform.p3_eq⟩

/-! ## The divider check of CFGCH (R121, R141) -/

/-- R142: the channels up to 2 are supported. -/
theorem exists_cfgChannel {ch : Byte} (h : ch.toNat ≤ 2) : ∃ c, cfgChannel ch = some c := by
  obtain h | h | h : ch.toNat = 0 ∨ ch.toNat = 1 ∨ ch.toNat = 2 := by omega
  all_goals simp [cfgChannel, h]

/-- R121: the divider is checked before its P values are computed. -/
theorem cfgchWrites_of_illegal {ch : Byte} {c : Channel} {mc : OutputConfig} (p : Platform) (q : Pll) (drive : BitVec 2)
    (inv : Bool) (phase : Byte) (hch : cfgChannel ch = some c) (hlegal : legalDiv mc.div mc.y mc.ai = false) :
    cfgchWrites p ch q drive inv mc phase = .error .invalidDivider := by
  simp only [cfgchWrites, hch, hlegal, Bool.false_eq_true, if_false]

/-- Settles O40: an illegal divider ends CFGCH before its write list exists. -/
theorem cfgchRefusesDivider : Obligations.CfgchRefusesDivider := by
  intro ch pll drive inv div y z rdiv ai phase s hch hlegal
  obtain ⟨c, hc⟩ := exists_cfgChannel hch
  rw [exec_cfgch_eq, cfgchWrites_of_illegal _ _ _ _ _ hc hlegal]
  rfl

/-! ## ParamRange (R123, R127, R143, R172) -/

/-- R127: P values that do not fit their fields are refused. -/
theorem encodeResult_of_not_fits {p1 p2 p3 : Word} (h : 2 ^ 18 ≤ p1.toNat ∨ 2 ^ 20 ≤ p2.toNat ∨ 2 ^ 20 ≤ p3.toNat)
    (d4 : BitVec 2) (rdiv : BitVec 3) : encodeResult p1 p2 p3 d4 rdiv = .error (.fault .paramRange) :=
  if_pos h

/-- R141: CFGCH of a valid channel and a legal divider ends with the fault of the divider's P values. -/
theorem cfgchWrites_of_pMs_error {ch : Byte} {c : Channel} {mc : OutputConfig} {e : FaultCode} (p : Platform) (q : Pll)
    (drive : BitVec 2) (inv : Bool) (phase : Byte) (hch : cfgChannel ch = some c)
    (hlegal : legalDiv mc.div mc.y mc.ai = true) (h : pMs mc = .error e) :
    cfgchWrites p ch q drive inv mc phase = .error (.fault e) := by
  simp only [cfgchWrites, hch, hlegal, h, if_true]

/-- R146: CFGPLL ends with the fault of its divider's P values. -/
theorem cfgpllWrites_of_pPll_error {pc : PllConfig} {e : FaultCode} (p : Platform) (q : Pll) (h : pPll pc = .error e) :
    cfgpllWrites p q pc = .error (.fault e) := by
  rw [cfgpllWrites, h]

/-- R152: PLAN's dividers are all legal. -/
theorem legalDiv_planConfigs {F : Nat} (r : BitVec 3) (hF : 0 < F) :
    legalDiv (planConfigs F r).2.div (planConfigs F r).2.y (planConfigs F r).2.ai = true := by
  rw [legalDiv_iff]
  rcases lt_or_ge F 81000000 with hlt | hge
  · rw [planConfigs_of_lt hlt]
    have hdiv := le_caseA_div r hF hlt
    omega
  · rw [planConfigs_of_le hge, caseB_eq]
    rcases ladderB_cases F with h | h | h <;> simp [h]

theorem legalDiv_of_planBody {corr : Int} {f : Nat} {pc : PllConfig} {mc : OutputConfig}
    (h : planBody corr f = .ok (pc, mc)) : legalDiv mc.div mc.y mc.ai = true := by
  obtain ⟨F, r, hF, hout⟩ := exists_planConfigs_of_planBody h
  obtain ⟨rfl, rfl⟩ := Prod.mk.inj hout
  exact legalDiv_planConfigs r hF

/-- R152: with a legal divider SETUP ends with ParamRange if either configuration's P values do. -/
theorem setupConfigWrites_of_paramRange {pc : PllConfig} {mc : OutputConfig} (p : Platform) (c : Channel) (q : Pll)
    (drive : BitVec 2) (hlegal : legalDiv mc.div mc.y mc.ai = true)
    (h : pvals pc.mult pc.num pc.denom false = .error .paramRange ∨ pvals mc.div mc.y mc.z true = .error .paramRange) :
    setupConfigWrites p c q drive pc mc = .error (.fault .paramRange) := by
  rw [setupConfigWrites, if_pos hlegal]
  cases hpll : pvals pc.mult pc.num pc.denom false with
  | error e =>
    obtain rfl := eq_paramRange_of_pvals hpll
    rw [pPll_of_pvals_error hpll]
  | ok pp =>
    have hms : pvals mc.div mc.y mc.z true = .error .paramRange := h.resolve_left (by simp [hpll])
    rw [pPll_of_pvals_ok hpll, pMs_of_pvals_error hms]

/-- R153: the channels 0 and 2 are supported. -/
theorem exists_setupChannel {ch : Byte} (h : ch = 0 ∨ ch = 2) : ∃ c q, setupChannel ch = some (c, q) := by
  obtain rfl | rfl := h
  · exact ⟨.ch0, .a, rfl⟩
  · exact ⟨.ch2, .b, rfl⟩

/-- R152, R153: SETUP of a supported channel, once its frequency is planned, delivers what its configurations give. -/
theorem setupWrites_of_planBody_ok {corr : Int} {ch : Byte} {f : Nat} {c : Channel} {q : Pll} {pc : PllConfig}
    {mc : OutputConfig} (p : Platform) (drive : BitVec 2) (hch : setupChannel ch = some (c, q))
    (h : planBody corr f = .ok (pc, mc)) :
    setupWrites p true corr ch f drive = setupConfigWrites p c q drive pc mc := by
  simp only [setupWrites, hch, h, if_true]

/-- Settles O31: each of the five commands ends early with the fault of its P values, before its first write. -/
theorem outOfRangeParametersRaiseParamRange : Obligations.OutOfRangeParametersRaiseParamRange := by
  refine ⟨fun i n d ms s h => ?_, fun p1 p2 p3 d4 rdiv s h => ?_,
    fun ch pll drive inv div y z rdiv ai phase s hch hlegal h => ?_, fun q mult num denom s h => ?_,
    fun ch f drive s pc mc hcv hch hplan h => ?_⟩ <;>
    refine ⟨s.raise .paramRange, ?_, raise_onlyFault _ s⟩
  · rw [exec_pcalc_eq, pcalcResult_of_pvals_error h]
    rfl
  · rw [exec_encode_eq, encodeResult_of_not_fits h]
    rfl
  · obtain ⟨c, hc⟩ := exists_cfgChannel hch
    rw [exec_cfgch_eq, cfgchWrites_of_pMs_error _ _ _ _ _ hc hlegal (pMs_of_pvals_error h)]
    rfl
  · rw [exec_cfgpll_eq, cfgpllWrites_of_pPll_error _ _ (pPll_of_pvals_error h)]
    rfl
  · obtain ⟨c, q, hc⟩ := exists_setupChannel hch
    rw [exec_setup_eq, hcv, setupWrites_of_planBody_ok _ _ hc hplan,
      setupConfigWrites_of_paramRange _ _ _ _ (legalDiv_of_planBody hplan) h]
    rfl

end Sys2Proof.Machine
end

section
/-! SUPPORT. Proofs for spec/42_programmer.md, the write lists: how performing one ends (R150), what `LOG` and `DEV` then hold
(R30, R43, R51), and what that says of a command's own list (R141, R146, R151, R152, R171, R176). -/

namespace Sys2Proof.Machine

/-! ## How performing a write list ends (R150) -/

/-- Everything performing a write list can do: the whole list is answered ok, or its first writes are and then
one fails. -/
theorem perform_cases (w : List Write) (s : State) :
    ((s.perform w).result = some ⟨.ok, .nothing⟩ ∧ (s.perform w).log = s.log ++ okEntries w) ∨
      ((s.perform w).result = some ⟨.transportFailure, .nothing⟩ ∧
        ∃ (before after : List Write) (a v : Byte), w = before ++ (a, v) :: after ∧
          (s.perform w).log = s.log ++ okEntries before ++ [⟨a, v, .err⟩]) := by
  induction w generalizing s with
  | nil => simp [State.perform, okEntries]
  | cons x w ih =>
    obtain ⟨a, v⟩ := x
    cases hans : s.transportAnswer a v with
    | ok =>
      have hlog1 : (s.busWrite a v).log = s.log ++ [⟨a, v, .ok⟩] := by rw [busWrite_log, State.busEntry, hans]
      rw [perform_cons, if_pos hans]
      rcases ih (s.busWrite a v) with ⟨hres, hlog⟩ | ⟨hres, before, after, b, u, rfl, hlog⟩ <;> rw [hlog1] at hlog
      · exact .inl ⟨hres, by simp [hlog, okEntries]⟩
      · exact .inr ⟨hres, (a, v) :: before, after, b, u, rfl, by simp [hlog, okEntries]⟩
    | err =>
      have hlog1 : (s.busWrite a v).log = s.log ++ [⟨a, v, .err⟩] := by rw [busWrite_log, State.busEntry, hans]
      rw [perform_cons, if_neg (by simp [hans])]
      exact .inr ⟨rfl, [], w, a, v, rfl, by rw [finish_log, hlog1]; simp [okEntries]⟩

/-- Status OK after a write list means that the log gained the whole list, every write answered ok. -/
theorem log_perform_of_ok {w : List Write} {s : State} {out : Output} (h : (s.perform w).result = some ⟨.ok, out⟩) :
    (s.perform w).log = s.log ++ okEntries w := by
  rcases perform_cases w s with ⟨-, hlog⟩ | ⟨hres, -⟩
  · exact hlog
  · simp [hres] at h

/-- Status TransportFailure after a write list means that the log gained its writes up to one that failed. -/
theorem log_perform_of_transportFailure {w : List Write} {s : State} {out : Output}
    (h : (s.perform w).result = some ⟨.transportFailure, out⟩) :
    ∃ (before after : List Write) (a v : Byte), w = before ++ (a, v) :: after ∧
      (s.perform w).log = s.log ++ okEntries before ++ [⟨a, v, .err⟩] := by
  rcases perform_cases w s with ⟨hres, -⟩ | ⟨-, hpre⟩
  · simp [hres] at h
  · exact hpre

/-- Performing a write list does not end with InvalidDivider. -/
theorem result_perform_ne_invalidDivider (w : List Write) (s : State) (out : Output) :
    (s.perform w).result ≠ some ⟨.invalidDivider, out⟩ := by
  rcases perform_cases w s with ⟨hres, -⟩ | ⟨hres, -⟩ <;> simp [hres]

/-- R43: a write list of one write, whatever its answer. -/
theorem perform_singleton (a v : Byte) (s : State) :
    s.perform [(a, v)] =
      (s.busWrite a v).finish (if s.transportAnswer a v = .ok then .ok else .transportFailure) .nothing := by
  rw [perform_cons]
  split_ifs <;> rfl

/-! ## A write list answered ok throughout (R51, R150) -/

/-- The first of the promised answers is the one the next write gets. -/
theorem AnswersOk.transportAnswer {s : State} {n : Nat} (h : AnswersOk s (n + 1)) (a v : Byte) :
    s.transportAnswer a v = .ok := by
  have h0 : s.answers[s.log.length]? = some .ok := h 0 n.succ_pos
  simp [State.transportAnswer, h0]

/-- A write uses up one of the promised answers. -/
theorem AnswersOk.busWrite {s : State} {n : Nat} (h : AnswersOk s (n + 1)) (a v : Byte) : AnswersOk (s.busWrite a v) n := by
  intro k hk
  have hidx : (s.busWrite a v).log.length + k = s.log.length + (k + 1) := by
    rw [busWrite_log, List.length_append, List.length_singleton]; omega
  rw [hidx, busWrite_answers]
  exact h (k + 1) (by omega)

/-- With an ok answer for each of its writes a list ends with status OK. -/
theorem result_perform_of_answersOk {w : List Write} {s : State} (h : AnswersOk s w.length) :
    (s.perform w).result = some ⟨.ok, .nothing⟩ := by
  induction w generalizing s with
  | nil => rfl
  | cons x w ih =>
    obtain ⟨a, v⟩ := x
    rw [perform_cons, if_pos (h.transportAnswer a v)]
    exact ih (h.busWrite a v)

/-- Status OK after a write list means that the shadow took the whole list: `DEV` follows `LOG`. -/
theorem dev_perform_of_ok {w : List Write} {s : State} {out : Output} (h : (s.perform w).result = some ⟨.ok, out⟩) :
    (s.perform w).dev = (okEntries w).foldl Memory.applyWrite s.dev := by
  obtain ⟨more, hlog, hdev⟩ := devFollowsLog_perform w s
  rw [List.append_cancel_left ((log_perform_of_ok h).symm.trans hlog), hdev]

/-- Settles O46: with every answer ok the list ends with OK, and OK fixes what `LOG` and `DEV` gained. -/
theorem performAllOk : Obligations.PerformAllOk := by
  intro w s h
  have hres := result_perform_of_answersOk h
  exact ⟨log_perform_of_ok hres, dev_perform_of_ok hres, hres⟩

/-! ## What a command did to its own write list (R150, R171, R176) -/

/-- R142, R121: the status of an early end is one of the two refusals, each for its own reason alone. -/
theorem status_of_endEarly {e : Early} {s : State} {st : Status} {out : Output}
    (h : (s.endEarly e).result = some ⟨st, out⟩) :
    (st = .invalidChannel ∧ e = .invalidChannel) ∨ (st = .invalidDivider ∧ e = .invalidDivider) := by
  cases e with
  | invalidChannel => cases h; exact .inl ⟨rfl, rfl⟩
  | invalidDivider => cases h; exact .inr ⟨rfl, rfl⟩
  | fault c => cases h

/-- Settles O54: of the ways a command ends only the performing of its write list gives this status. -/
theorem transportFailureLogsThePrefix : Obligations.TransportFailureLogsThePrefix := by
  intro i s t out h hres
  rcases exec_cases i s with ⟨c, -, -, he⟩ | ⟨o, -, he⟩ | ⟨e, he⟩ | ⟨w, hw, he⟩ <;>
    obtain rfl := Host.Outcome.next.inj (he.symm.trans h)
  · simp at hres
  · simp at hres
  · simpa using status_of_endEarly hres
  · obtain ⟨before, after, a, v, rfl, hlog⟩ := log_perform_of_transportFailure hres
    obtain ⟨-, -, hfault⟩ := perform_keeps (before ++ (a, v) :: after) s
    exact ⟨hfault, before, after, a, v, hw, rfl, hlog⟩

/-- Settles O55: a command ends with OK after its whole write list, which is empty where it ends with an output. -/
theorem okMeansEveryWriteOk : Obligations.OkMeansEveryWriteOk := by
  intro i s t out h hres
  rcases exec_cases i s with ⟨c, rfl, -, he⟩ | ⟨o, hw, he⟩ | ⟨e, he⟩ | ⟨w, hw, he⟩ <;>
    obtain rfl := Host.Outcome.next.inj (he.symm.trans h)
  · exact ⟨[], rfl, (List.append_nil _).symm⟩
  · exact ⟨[], hw, (List.append_nil _).symm⟩
  · simpa using status_of_endEarly hres
  · exact ⟨w, hw, log_perform_of_ok hres⟩

/-- Settles O42: the log has gained CFGPLL's own write list, whose last write is the PLL reset. -/
theorem cfgpllEndsWithReset : Obligations.CfgpllEndsWithReset := by
  intro q mult num denom s t out h hres
  obtain ⟨w, hw, hlog⟩ := okMeansEveryWriteOk _ s t out h hres
  obtain ⟨pp, -, rfl⟩ := eq_pllWrites_of_cfgpllWrites hw
  rw [hlog, pllWrites, okEntries, List.map_append, ← List.append_assoc]
  exact List.getLast?_concat

/-! ## The frame of the writing commands (R141, R146, R151, R152, R156) -/

/-- R43: performing a write list leaves every device register that the list does not name. -/
theorem read_perform_other {w : List Write} {a : Nat} (s : State) (h : ∀ x ∈ w, x.1.toNat ≠ a) :
    (s.perform w).dev.read a = s.dev.read a := by
  refine perform_induction (P := fun t => t.dev.read a = s.dev.read a) w s (fun t b v hmem ht => ?_) (fun _ _ ht => ht) rfl
  rw [busWrite_dev, read_applyWrite_other _ _ (h (b, v) hmem).symm, ht]

/-- R143, R176: whatever its checks answer, a command that writes the device keeps within the frame of its write list. -/
theorem deliver_frame (r : Except Early (List Write)) (s : State) : DeliverFrame r s (s.deliver r) := by
  rcases deliver_cases r s with ⟨w, rfl, h⟩ | ⟨e, rfl, h⟩ <;> rw [h]
  · obtain ⟨hcorr, hin, hfault⟩ := perform_keeps w s
    exact ⟨hcorr, hin, fun _ => hfault, fun hne => absurd rfl (hne w), fun a ha => read_perform_other s (ha w rfl)⟩
  · obtain ⟨hlog, hin⟩ := endEarly_keeps e s
    refine ⟨endEarly_sameCorr e s, hin, fun hne => ?_, fun _ => hlog, fun a _ => by rw [endEarly_dev]⟩
    rcases endEarly_cases e s with he | he | ⟨c, rfl, -⟩
    · rw [he, finish_fault]
    · rw [he, finish_fault]
    · exact absurd rfl (hne c)

/-- Settles O50: each of the four commands delivers what its own checks answer; SETOE has none. -/
theorem frameOfWritingCommands : Obligations.FrameOfWritingCommands := by
  refine ⟨fun ch pll drive inv div y z rdiv ai phase s t h => ?_, fun q mult num denom s t h => ?_, fun m s t h => ?_,
    fun ch f drive s t h => ?_⟩ <;> obtain rfl := Host.Outcome.next.inj h
  · exact deliver_frame _ s
  · exact deliver_frame _ s
  · exact deliver_frame (.ok _) s
  · exact deliver_frame _ s

end Sys2Proof.Machine
end

section
/-! SUPPORT. Proofs for spec/42_programmer.md, the commands: SETCORR (R140), the channels (R142, R153), the write lists of CFGCH,
CFGPLL and SETUP (R141, R145 to R148, R152), SETOE (R151), and the image a configured channel shows (R194). -/

namespace Sys2Proof.Machine

/-! ## SETCORR (R140) -/

theorem exec_setcorr_of_unset (c : Word) {s : State} (h : s.corrValid = false) :
    exec (.setcorr c) s = .next ((s.latchCorr c).finish .ok .nothing) := by
  simp only [exec, execSetcorr, h, Bool.false_eq_true, if_false]

theorem exec_setcorr_of_set (c : Word) {s : State} (h : s.corrValid = true) :
    exec (.setcorr c) s = .next (s.raise .alreadyInitialized) := by
  simp only [exec, execSetcorr, h, if_true]

/-- Settles O10: the two cases of R140's test. -/
theorem setcorrLatchesOnce : Obligations.SetcorrLatchesOnce := fun c s =>
  ⟨exec_setcorr_of_unset c, fun h => ⟨_, exec_setcorr_of_set c h, raise_onlyFault _ s⟩⟩

/-! ## Channels (R142, R153) -/

/-- R142: no channel above 2 is supported. -/
theorem cfgChannel_eq_none {ch : Byte} (h : 2 < ch.toNat) : cfgChannel ch = none := by
  unfold cfgChannel
  split
  · omega
  · omega
  · omega
  · rfl

/-- R153: SETUP supports the channels 0 and 2 alone. -/
theorem setupChannel_eq_none {ch : Byte} (h0 : ch ≠ 0) (h2 : ch ≠ 2) : setupChannel ch = none := by
  unfold setupChannel
  split
  · next h => exact absurd (BitVec.eq_of_toNat_eq h) h0
  · next h => exact absurd (BitVec.eq_of_toNat_eq h) h2
  · rfl

/-- R141: the channel is CFGCH's first check. -/
theorem cfgchWrites_of_unsupported {ch : Byte} (p : Platform) (q : Pll) (drive : BitVec 2) (inv : Bool) (mc : OutputConfig)
    (phase : Byte) (h : cfgChannel ch = none) : cfgchWrites p ch q drive inv mc phase = .error .invalidChannel := by
  simp only [cfgchWrites, h]

/-- R152, R175: once initialised, the channel is SETUP's first check. -/
theorem setupWrites_of_unsupported {ch : Byte} (p : Platform) (corr : Int) (f : Nat) (drive : BitVec 2)
    (h : setupChannel ch = none) : setupWrites p true corr ch f drive = .error .invalidChannel := by
  simp only [setupWrites, h, if_true]

/-- Settles O39: both commands end early on their channel, before they look at anything else. -/
theorem unsupportedChannelsRefused : Obligations.UnsupportedChannelsRefused := by
  refine ⟨fun ch pll drive inv div y z rdiv ai phase s h => ?_, fun ch f drive s hcv h0 h2 => ?_⟩
  · rw [exec_cfgch_eq, cfgchWrites_of_unsupported _ _ _ _ _ _ (cfgChannel_eq_none h)]
    rfl
  · have hw : setupWrites s.platform s.corrValid s.corrInt ch f.toNat drive = .error .invalidChannel := by
      rw [hcv, setupWrites_of_unsupported _ _ _ _ (setupChannel_eq_none h0 h2)]
    rw [exec_setup_eq, hw]
    rfl

/-! ## CFGCH (R141, R145) -/

/-- The source bit is 1 exactly for PLL B (R8). -/
theorem pllBit_eq_decide (q : Pll) : pllBit q = decide (q = .b) := by cases q <;> rfl

/-- R145: a channel's ten writes, each byte in its fields. -/
theorem chWrites_eq (p : Platform) (c : Channel) (q : Pll) (drive : BitVec 2) (inv : Bool) (mc : OutputConfig)
    (pm : PValues × BitVec 2 × BitVec 3) (phase : Byte) :
    chWrites p c q drive inv mc pm phase =
      [(addrCtrl p c, ctrlOf p.params.layout (intMs mc.div mc.y mc.ai) (decide (q = .b)) inv drive)]
        ++ imageWrites (addrMs p c) (img8 pm.1 pm.2.1 pm.2.2) ++ [(addrPhase p c, phase &&& 0x7F)] := by
  rw [chWrites, ctrlByte, pllBit_eq_decide, phaseByte]

/-- R141: on a supported channel, with a legal divider in range, CFGCH has the channel's write list. -/
theorem cfgchWrites_of_pMs_ok {ch : Byte} {c : Channel} {mc : OutputConfig} {pm : PValues × BitVec 2 × BitVec 3}
    (p : Platform) (q : Pll) (drive : BitVec 2) (inv : Bool) (phase : Byte) (hch : cfgChannel ch = some c)
    (hlegal : legalDiv mc.div mc.y mc.ai = true) (h : pMs mc = .ok pm) :
    cfgchWrites p ch q drive inv mc phase = .ok (chWrites p c q drive inv mc pm phase) := by
  simp only [cfgchWrites, hch, hlegal, h, if_true]

/-- R142: the three supported channels, by number. -/
theorem cfgChannel_eq_some {ch : Byte} {c : Channel}
    (h : (ch = 0 ∧ c = .ch0) ∨ (ch = 1 ∧ c = .ch1) ∨ (ch = 2 ∧ c = .ch2)) : cfgChannel ch = some c := by
  obtain ⟨rfl, rfl⟩ | ⟨rfl, rfl⟩ | ⟨rfl, rfl⟩ := h <;> rfl

/-- R141: CFGCH that passes its checks performs the channel's write list. -/
theorem exec_cfgch_of_pvals_ok {ch : Byte} {c : Channel} {div y z : Word} {ai : Bool} {p : PValues} (pll : Pll)
    (drive : BitVec 2) (inv : Bool) (rdiv : BitVec 3) (phase : Byte) (s : State) (hch : cfgChannel ch = some c)
    (hlegal : legalDiv div.toNat y.toNat ai = true) (hp : pvals div.toNat y.toNat z.toNat true = .ok p) :
    exec (.cfgch ch pll drive inv div y z rdiv ai phase) s =
      .next (s.perform (chWrites s.platform c pll drive inv ⟨div.toNat, y.toNat, z.toNat, rdiv, ai⟩
        (p, divBy4Code div.toNat, rdiv) phase)) := by
  rw [exec_cfgch_eq, cfgchWrites_of_pMs_ok _ _ _ _ _ hch hlegal (pMs_of_pvals_ok hp)]
  rfl

/-- R46: an image's eight writes, the first at the base itself. -/
theorem imageWrites_eq (base : Byte) (b : Image) :
    imageWrites base b = [(base, b.b0), (base + 1, b.b1), (base + 2, b.b2), (base + 3, b.b3), (base + 4, b.b4),
      (base + 5, b.b5), (base + 6, b.b6), (base + 7, b.b7)] := by
  rw [imageWrites, BitVec.ofNat_eq_ofNat, BitVec.add_zero]

/-- Settles O38: the channel's write list, written out. -/
theorem cfgchPerformsTenWrites : Obligations.CfgchPerformsTenWrites := by
  rintro ch pll drive inv div y z rdiv ai phase s c p _ hch hlegal hp rfl
  rw [exec_cfgch_of_pvals_ok _ _ _ _ _ _ (cfgChannel_eq_some hch) hlegal hp, chWrites_eq, imageWrites_eq]
  rfl

/-! ## CFGPLL (R146 to R148) -/

/-- R148: the integer-mode write, on its condition in plain terms. -/
theorem pllIntWrite_eq (p : Platform) (q : Pll) (pc : PllConfig) :
    pllIntWrite p q pc =
      if p.params.pllIntOpt = true ∧ pc.num = 0 ∧ pc.mult % 2 = 0 then [(addrPllInt p q, valPllInt p q)] else [] := by
  simp only [pllIntWrite, Bool.and_eq_true, intPll_iff]

/-- R146: with its divider in range CFGPLL has the PLL's write list. -/
theorem cfgpllWrites_of_pPll_ok {pc : PllConfig} {pp : PValues × BitVec 2 × BitVec 3} (p : Platform) (q : Pll)
    (h : pPll pc = .ok pp) : cfgpllWrites p q pc = .ok (pllWrites p q pc pp) := by
  rw [cfgpllWrites, h]

/-- Settles O41: the PLL's write list, written out. -/
theorem cfgpllPerformsWrites : Obligations.CfgpllPerformsWrites := by
  rintro q mult num denom s p _ hp rfl
  rw [exec_cfgpll_eq, cfgpllWrites_of_pPll_ok _ _ (pPll_of_pvals_ok hp), pllWrites, pllIntWrite_eq, imageWrites_eq]
  rfl

/-! ## SETOE (R151) -/

/-- Settles O43: SETOE is one bus write, of the complement of its mask. -/
theorem setoeWritesComplement : Obligations.SetoeWritesComplement := by
  rintro m s _ rfl
  have hexec : exec (.setoe m) s = .next (s.perform [(s.platform.params.oe, oeByte m)]) := rfl
  rw [perform_singleton] at hexec
  refine ⟨_, hexec, ?_, ?_, fun a ha => ?_, rfl, rfl, ⟨rfl, rfl⟩, rfl, rfl, rfl⟩
  · rw [finish_log, busWrite_log, State.busEntry, oeByte_eq_not]
  · rw [← oeByte_eq_not]
    exact read_applyWrite_same s.dev (s.busEntry s.platform.params.oe (oeByte m))
  · exact read_applyWrite_other s.dev (s.busEntry s.platform.params.oe (oeByte m)) ha

/-! ## SETUP (R152, R153) -/

/-- R152: a legal divider is never refused. -/
theorem setupConfigWrites_ne_invalidDivider {pc : PllConfig} {mc : OutputConfig} (p : Platform) (c : Channel) (q : Pll)
    (drive : BitVec 2) (hlegal : legalDiv mc.div mc.y mc.ai = true) :
    setupConfigWrites p c q drive pc mc ≠ .error .invalidDivider := by
  rw [setupConfigWrites, if_pos hlegal]
  cases pPll pc with
  | error e => simp
  | ok pp => cases pMs mc <;> simp

/-- R152: SETUP's checks do not answer InvalidDivider, since its divider is one that PLAN planned. -/
theorem setupWrites_ne_invalidDivider (p : Platform) (corrValid : Bool) (corr : Int) (ch : Byte) (f : Nat)
    (drive : BitVec 2) : setupWrites p corrValid corr ch f drive ≠ .error .invalidDivider := by
  cases corrValid with
  | false => simp [setupWrites_uninitialized]
  | true =>
    cases hch : setupChannel ch with
    | none => simp [setupWrites_of_unsupported _ _ _ _ hch]
    | some x =>
      cases hplan : planBody corr f with
      | error e => simp [setupWrites_of_planBody_error _ _ hch hplan]
      | ok out =>
        rw [setupWrites_of_planBody_ok _ _ hch hplan]
        exact setupConfigWrites_ne_invalidDivider _ _ _ _ (legalDiv_of_planBody hplan)

/-- Settles O45: SETUP ends with the status of a performed write list, or early for a reason that its checks answer. -/
theorem setupNeverInvalidDivider : Obligations.SetupNeverInvalidDivider := by
  intro ch f drive s t out h hres
  obtain rfl := Host.Outcome.next.inj ((exec_setup_eq ch f drive s).symm.trans h)
  rcases deliver_cases (setupWrites s.platform s.corrValid s.corrInt ch f.toNat drive) s with ⟨w, -, hd⟩ | ⟨e, he, hd⟩ <;>
    rw [hd] at hres
  · exact result_perform_ne_invalidDivider w s out hres
  · rcases status_of_endEarly hres with ⟨hst, -⟩ | ⟨-, rfl⟩
    · cases hst
    · exact setupWrites_ne_invalidDivider _ _ _ _ _ _ he

/-- R152: with a legal divider and both configurations in range SETUP has the PLL's write list and then the channel's. -/
theorem setupConfigWrites_of_ok {pc : PllConfig} {mc : OutputConfig} {pp pm : PValues × BitVec 2 × BitVec 3} (p : Platform)
    (c : Channel) (q : Pll) (drive : BitVec 2) (hlegal : legalDiv mc.div mc.y mc.ai = true) (hpp : pPll pc = .ok pp)
    (hpm : pMs mc = .ok pm) :
    setupConfigWrites p c q drive pc mc = .ok (pllWrites p q pc pp ++ chWrites p c q drive false mc pm 0) := by
  simp only [setupConfigWrites, hlegal, hpp, hpm, if_true]

/-- R153: the two supported channels, by number, and the PLL of each. -/
theorem setupChannel_eq_some {ch : Byte} {c : Channel} {q : Pll}
    (h : (ch = 0 ∧ c = .ch0 ∧ q = .a) ∨ (ch = 2 ∧ c = .ch2 ∧ q = .b)) : setupChannel ch = some (c, q) := by
  obtain ⟨rfl, rfl, rfl⟩ | ⟨rfl, rfl, rfl⟩ := h <;> rfl

/-- Settles O44: the PLL's write list and then the channel's, written out; only the integer-mode write is optional. -/
theorem setupPerformsWrites : Obligations.SetupPerformsWrites := by
  rintro ch f drive s c q pc mc pp pm w hcv hch hplan hpp hpm hw
  refine ⟨?_, ?_⟩
  · rw [exec_setup_eq, hcv, setupWrites_of_planBody_ok _ _ (setupChannel_eq_some hch) hplan,
      setupConfigWrites_of_ok _ _ _ _ (legalDiv_of_planBody hplan) (pPll_of_pvals_ok hpp) (pMs_of_pvals_ok hpm),
      pllWrites, pllIntWrite_eq, chWrites_eq, hw]
    simp only [List.append_assoc]
    rfl
  · rw [hw]
    split_ifs <;> rfl

/-! ## The image a configured channel shows (R194) -/

/-- Answered writes leave every address that none of them goes to. -/
theorem read_foldl_applyWrite_other {es : List LogEntry} {a : Nat} (m : Memory) (h : ∀ e ∈ es, a ≠ e.addr.toNat) :
    (es.foldl Memory.applyWrite m).read a = m.read a := by
  induction es generalizing m with
  | nil => rfl
  | cons e es ih =>
    rw [List.foldl_cons, ih _ fun e' he' => h e' (List.mem_cons_of_mem _ he'),
      read_applyWrite_other m e (h e List.mem_cons_self)]

/-- After writes answered ok, no two to one address, every address written holds its value. -/
theorem read_foldl_okEntries {w : List Write} (m : Memory) (hw : (w.map fun x => x.1.toNat).Nodup) {x : Write}
    (hx : x ∈ w) : ((okEntries w).foldl Memory.applyWrite m).read x.1.toNat = some x.2 := by
  induction w generalizing m with
  | nil => cases hx
  | cons y w ih =>
    obtain ⟨hy, hw⟩ := List.nodup_cons.mp hw
    rw [okEntries, List.map_cons, List.foldl_cons]
    rcases List.mem_cons.mp hx with rfl | hx
    · rw [read_foldl_applyWrite_other]
      · exact read_applyWrite_same m ⟨x.1, x.2, .ok⟩
      · intro e he heq
        obtain ⟨z, hz, rfl⟩ := List.mem_map.mp he
        exact hy (List.mem_map.mpr ⟨z, hz, heq.symm⟩)
    · exact ih _ hw hx

/-- R46: no two writes of an image that fits, and of a register outside it, go to one address. -/
theorem nodup_imageWrites_concat {base a : Byte} (hb : base.toNat + 7 ≤ 255) (b : Image) (v : Byte)
    (ha : inImage base a = false) : ((imageWrites base b ++ [(a, v)]).map fun x => x.1.toNat).Nodup := by
  have himage : ((imageWrites base b).map fun x => x.1.toNat).Nodup := by
    rw [imageWrites_addresses hb]
    exact List.nodup_range.map fun _ _ h => Nat.add_left_cancel h
  rw [List.map_append, List.nodup_append]
  refine ⟨himage, List.nodup_singleton _, fun n hn n' hn' heq => ?_⟩
  obtain ⟨x, hx, rfl⟩ := List.mem_map.mp hn
  have hxa : x.1 = a := BitVec.eq_of_toNat_eq (heq.trans (List.mem_singleton.mp hn'))
  have hin := inImage_of_mem_imageWrites hb hx
  rw [hxa, ha] at hin
  cases hin

/-- R145, R194: after a channel's ten writes answered ok its image and its phase register hold what was written, wherever the
control write before them went. -/
theorem read_foldl_chWrites {p : Platform} {c : Channel} (q : Pll) (drive : BitVec 2) (inv : Bool) (mc : OutputConfig)
    {pm : PValues × BitVec 2 × BitVec 3} {phase : Byte} (m : Memory) (hphase : inImage (addrMs p c) (addrPhase p c) = false)
    {x : Write} (hx : x ∈ imageWrites (addrMs p c) (img8 pm.1 pm.2.1 pm.2.2) ++ [(addrPhase p c, phaseByte phase)]) :
    ((okEntries (chWrites p c q drive inv mc pm phase)).foldl Memory.applyWrite m).read x.1.toNat = some x.2 := by
  rw [chWrites, List.append_assoc, List.singleton_append, okEntries, List.map_cons, List.foldl_cons]
  exact read_foldl_okEntries _ (nodup_imageWrites_concat (addrMs_imageFits p c) _ _ hphase) hx

/-- Settles O47: ten ok answers make CFGCH end with OK, and then `DEV` took the channel's whole write list. -/
theorem configuredChannelShowsImage : Obligations.ConfiguredChannelShowsImage := by
  intro ch pll drive inv div y z rdiv ai phase s c p hch hlegal hp hphase hans
  have hres := result_perform_of_answersOk (w := chWrites s.platform c pll drive inv ⟨div.toNat, y.toNat, z.toNat, rdiv, ai⟩
    (p, divBy4Code div.toNat, rdiv) phase) hans
  refine ⟨_, exec_cfgch_of_pvals_ok _ _ _ _ _ _ (cfgChannel_eq_some hch) hlegal hp, hres, fun x hx => ?_, ?_⟩ <;>
    rw [dev_perform_of_ok hres]
  · exact read_foldl_chWrites _ _ _ _ _ hphase (List.mem_append_left _ hx)
  · exact read_foldl_chWrites (x := (addrPhase s.platform c, phaseByte phase)) _ _ _ _ _ hphase
      (List.mem_append_right _ List.mem_cons_self)

end Sys2Proof.Machine
end

section
/-! SUPPORT. Proofs for spec/60_exceptions.md: command entry (R174, R177), the two ways a command ends (R170, R176), and the rows
of the status and fault tables (R171, R172). -/

namespace Sys2Proof.Machine

/-! ## Command entry (R174, R177) -/

/-- R174: a frame that decodes is run as its command, on the state it was taken from. -/
theorem step_of_decode_ok {s : State} {fr : Frame} {rest : List Frame} {i : Instr} (hfault : s.fault = none)
    (hframes : s.frames = fr :: rest) (hdec : decode fr = .ok i) : step s = exec i (s.takeFrame rest) := by
  simp [step, State.entry, hfault, hframes, hdec]

/-- Settles O4: taking the frame is what changes before the command runs. -/
theorem stepRunsDecodedCommand : Obligations.StepRunsDecodedCommand :=
  fun _ _ _ _ => step_of_decode_ok

/-- Settles O6: the test of `FAULT` stands before command entry. -/
theorem faultedBlockHasNoStep : Obligations.FaultedBlockHasNoStep := by
  intro s c h
  rw [step, h]

/-! ## The refusals (R121, R142, R153, R176) -/

/-- R150: the two statuses that performing a write list can end with. -/
theorem status_of_perform {w : List Write} {s : State} {st : Status} {out : Output}
    (h : (s.perform w).result = some ⟨st, out⟩) : st = .ok ∨ st = .transportFailure := by
  rcases perform_cases w s with ⟨hres, -⟩ | ⟨hres, -⟩ <;> cases hres.symm.trans h
  · exact .inl rfl
  · exact .inr rfl

/-- An early end with a status does nothing but put it on the port, with no output. -/
theorem endEarly_eq_finish {e : Early} {s : State} {st : Status} {out : Output}
    (h : (s.endEarly e).result = some ⟨st, out⟩) : s.endEarly e = s.finish st .nothing := by
  rcases status_of_endEarly h with ⟨rfl, rfl⟩ | ⟨rfl, rfl⟩ <;> rfl

/-- Settles O53: of the ways a command ends only the early end gives one of the two refusals. -/
theorem refusalStatusesArePrecise : Obligations.RefusalStatusesArePrecise := by
  intro i s t st out h hres hst
  rcases exec_cases i s with ⟨c, -, -, he⟩ | ⟨o, -, he⟩ | ⟨e, he⟩ | ⟨w, -, he⟩ <;>
    obtain rfl := Host.Outcome.next.inj (he.symm.trans h)
  · cases hres
    simp at hst
  · cases hres
    simp at hst
  · exact endEarly_eq_finish hres
  · obtain rfl | rfl := status_of_perform hres <;> simp at hst

/-! ## The faults of each command's checks (R93, R123, R143, R172) -/

/-- A planning command ends early by a fault alone (R95, R101). -/
theorem exists_fault_of_planResult {corrValid : Bool} {body : Except FaultCode (PllConfig × OutputConfig)} {e : Early}
    (h : planResult corrValid body = .error e) : ∃ c, e = .fault c := by
  unfold planResult at h
  split at h
  · split at h <;> cases h
    exact ⟨_, rfl⟩
  · cases h; exact ⟨_, rfl⟩

/-- PCALC ends early by a fault alone (R122). -/
theorem exists_fault_of_pcalcResult {i n d : Nat} {ms : Bool} {e : Early} (h : pcalcResult i n d ms = .error e) :
    ∃ c, e = .fault c := by
  unfold pcalcResult at h
  split at h <;> cases h
  exact ⟨_, rfl⟩

/-- ENCODE ends early by a fault alone (R127). -/
theorem exists_fault_of_encodeResult {p1 p2 p3 : Word} {d4 : BitVec 2} {rdiv : BitVec 3} {e : Early}
    (h : encodeResult p1 p2 p3 d4 rdiv = .error e) : ∃ c, e = .fault c := by
  unfold encodeResult at h
  split at h <;> cases h
  exact ⟨_, rfl⟩

/-- The one fault of a multisynth divider's image fields (R125). -/
theorem eq_paramRange_of_pMs {mc : OutputConfig} {c : FaultCode} (h : pMs mc = .error c) : c = .paramRange := by
  unfold pMs at h
  split at h
  · cases h
  · next hp => cases h; exact eq_paramRange_of_pvals hp

/-- The one fault of a feedback divider's image fields (R126). -/
theorem eq_paramRange_of_pPll {pc : PllConfig} {c : FaultCode} (h : pPll pc = .error c) : c = .paramRange := by
  unfold pPll at h
  split at h
  · cases h
  · next hp => cases h; exact eq_paramRange_of_pvals hp

/-- The one fault of CFGCH (R141). -/
theorem eq_paramRange_of_cfgchWrites {p : Platform} {ch : Byte} {q : Pll} {drive : BitVec 2} {inv : Bool} {mc : OutputConfig}
    {phase : Byte} {c : FaultCode} (h : cfgchWrites p ch q drive inv mc phase = .error (.fault c)) : c = .paramRange := by
  unfold cfgchWrites at h
  split at h
  · cases h
  · split at h
    · split at h
      · cases h
      · next hpm => cases h; exact eq_paramRange_of_pMs hpm
    · cases h

/-- CFGPLL ends early by its one fault alone (R146). -/
theorem eq_fault_paramRange_of_cfgpllWrites {p : Platform} {q : Pll} {pc : PllConfig} {e : Early}
    (h : cfgpllWrites p q pc = .error e) : e = .fault .paramRange := by
  unfold cfgpllWrites at h
  split at h
  · cases h
  · next hpp => cases h; rw [eq_paramRange_of_pPll hpp]

/-- The one fault of SETUP's configurations (R152). -/
theorem eq_paramRange_of_setupConfigWrites {p : Platform} {c : Channel} {q : Pll} {drive : BitVec 2} {pc : PllConfig}
    {mc : OutputConfig} {e : FaultCode} (h : setupConfigWrites p c q drive pc mc = .error (.fault e)) : e = .paramRange := by
  unfold setupConfigWrites at h
  split at h
  · split at h
    · next hpp => cases h; exact eq_paramRange_of_pPll hpp
    · split at h
      · next hpm => cases h; exact eq_paramRange_of_pMs hpm
      · cases h
  · cases h

/-- The three faults of SETUP: of the initialisation check, of PLAN's planner and of the configurations (R152, R175). -/
theorem fault_of_setupWrites {p : Platform} {corrValid : Bool} {corr : Int} {ch : Byte} {f : Nat} {drive : BitVec 2}
    {c : FaultCode} (h : setupWrites p corrValid corr ch f drive = .error (.fault c)) :
    c = .notInitialized ∨ c = .planDomain ∨ c = .paramRange := by
  unfold setupWrites at h
  split at h
  · split at h
    · cases h
    · split at h
      · next hplan => cases h; exact .inr (.inl (eq_planDomain_of_planBody hplan))
      · exact .inr (.inr (eq_paramRange_of_setupConfigWrites h))
  · cases h; exact .inl rfl

/-! ## The two ways a command ends, by the rows of the tables (R170, R171, R172) -/

/-- From `s` the command ended in `t` with a fault whose row in R172's table names it, and that fault is all that happened; or it
ended with a status whose row in R171's table names it, and `FAULT` is as it was. -/
def EndsInOwnRow (i : Instr) (s t : State) : Prop :=
  (∃ c, raises i c = true ∧ t = s.raise c) ∨
    (t.fault = s.fault ∧ ∃ r, t.result = some r ∧ returns i r.status = true)

/-- The row of an early end, of R171's table or of R172's, names the command. -/
def Early.InRow (i : Instr) : Early → Prop
  | .invalidChannel => returns i .invalidChannel = true
  | .invalidDivider => returns i .invalidDivider = true
  | .fault c => raises i c = true

theorem finish_endsInOwnRow {i : Instr} {st : Status} (out : Output) (s : State) (h : returns i st = true) :
    EndsInOwnRow i s (s.finish st out) :=
  .inr ⟨rfl, _, rfl, h⟩

theorem endEarly_endsInOwnRow {i : Instr} {e : Early} (s : State) (h : e.InRow i) : EndsInOwnRow i s (s.endEarly e) := by
  cases e with
  | invalidChannel => exact finish_endsInOwnRow _ s h
  | invalidDivider => exact finish_endsInOwnRow _ s h
  | fault c => exact .inl ⟨c, h, rfl⟩

/-- R150: performing a write list ends with one of two statuses and leaves `FAULT`. -/
theorem perform_endsInOwnRow {i : Instr} (w : List Write) (s : State) (hok : returns i .ok = true)
    (hfail : returns i .transportFailure = true) : EndsInOwnRow i s (s.perform w) := by
  obtain ⟨-, -, hfault⟩ := perform_keeps w s
  rcases perform_cases w s with ⟨hres, -⟩ | ⟨hres, -⟩
  · exact .inr ⟨hfault, _, hres, hok⟩
  · exact .inr ⟨hfault, _, hres, hfail⟩

/-- A command that writes no device register keeps to its rows if its early ends do. -/
theorem conclude_endsInOwnRow {i : Instr} {r : Except Early Output} (s : State) (hok : returns i .ok = true)
    (hr : ∀ e, r = .error e → e.InRow i) : EndsInOwnRow i s (s.conclude r) := by
  rcases conclude_cases r s with ⟨out, -, h⟩ | ⟨e, he, h⟩ <;> rw [h]
  · exact finish_endsInOwnRow out s hok
  · exact endEarly_endsInOwnRow s (hr e he)

/-- A command that writes the device keeps to its rows if its early ends do. -/
theorem deliver_endsInOwnRow {i : Instr} {r : Except Early (List Write)} (s : State) (hok : returns i .ok = true)
    (hfail : returns i .transportFailure = true) (hr : ∀ e, r = .error e → e.InRow i) :
    EndsInOwnRow i s (s.deliver r) := by
  rcases deliver_cases r s with ⟨w, -, h⟩ | ⟨e, he, h⟩ <;> rw [h]
  · exact perform_endsInOwnRow w s hok hfail
  · exact endEarly_endsInOwnRow s (hr e he)

/-- R170 to R172: every command answers a next state, and ends within the rows that name it. -/
theorem exists_exec_endsInOwnRow (i : Instr) (s : State) : ∃ t, exec i s = .next t ∧ EndsInOwnRow i s t := by
  cases i with
  | setcorr c =>
    cases hcv : s.corrValid with
    | true => exact ⟨_, exec_setcorr_of_set c hcv, .inl ⟨_, rfl, rfl⟩⟩
    | false => exact ⟨_, exec_setcorr_of_unset c hcv, .inr ⟨rfl, _, rfl, rfl⟩⟩
  | plan f =>
    refine ⟨_, exec_plan_eq f s, conclude_endsInOwnRow s rfl fun e he => ?_⟩
    obtain ⟨c, rfl⟩ := exists_fault_of_planResult he
    obtain rfl | rfl := fault_of_planResult (fun _ => eq_planDomain_of_planBody) he <;> rfl
  | planiq f =>
    refine ⟨_, exec_planiq_eq f s, conclude_endsInOwnRow s rfl fun e he => ?_⟩
    obtain ⟨c, rfl⟩ := exists_fault_of_planResult he
    obtain rfl | rfl := fault_of_planResult (fun _ => eq_planDomain_of_planIqBody) he <;> rfl
  | pcalc j n d ms =>
    refine ⟨_, exec_pcalc_eq j n d ms s, conclude_endsInOwnRow s rfl fun e he => ?_⟩
    obtain ⟨c, rfl⟩ := exists_fault_of_pcalcResult he
    obtain rfl := eq_paramRange_of_pcalcResult he
    rfl
  | encode p1 p2 p3 d4 rdiv =>
    refine ⟨_, exec_encode_eq p1 p2 p3 d4 rdiv s, conclude_endsInOwnRow s rfl fun e he => ?_⟩
    obtain ⟨c, rfl⟩ := exists_fault_of_encodeResult he
    obtain rfl := eq_paramRange_of_encodeResult he
    rfl
  | cfgch ch q drive inv div y z rdiv ai phase =>
    refine ⟨_, exec_cfgch_eq .., deliver_endsInOwnRow s rfl rfl fun e he => ?_⟩
    cases e with
    | invalidChannel | invalidDivider => rfl
    | fault c => obtain rfl := eq_paramRange_of_cfgchWrites he; rfl
  | cfgpll q mult num denom =>
    refine ⟨_, exec_cfgpll_eq q mult num denom s, deliver_endsInOwnRow s rfl rfl fun e he => ?_⟩
    obtain rfl := eq_fault_paramRange_of_cfgpllWrites he
    rfl
  | setoe mask => exact ⟨_, rfl, perform_endsInOwnRow _ s rfl rfl⟩
  | setup ch f drive =>
    refine ⟨_, exec_setup_eq ch f drive s, deliver_endsInOwnRow s rfl rfl fun e he => ?_⟩
    cases e with
    | invalidChannel | invalidDivider => rfl
    | fault c => obtain rfl | rfl | rfl := fault_of_setupWrites he <;> rfl

/-- What a command can have done where it answered `t`. -/
theorem endsInOwnRow_of_exec {i : Instr} {s t : State} (h : exec i s = .next t) : EndsInOwnRow i s t := by
  obtain ⟨t', ht', hends⟩ := exists_exec_endsInOwnRow i s
  obtain rfl := Host.Outcome.next.inj (ht'.symm.trans h)
  exact hends

/-- From no fault, a command that ends with `FAULT` holding a code raised that code. -/
theorem EndsInOwnRow.eq_raise {i : Instr} {s t : State} {c : FaultCode} (h : EndsInOwnRow i s t) (hs : s.fault = none)
    (hc : t.fault = some c) : raises i c = true ∧ t = s.raise c := by
  obtain ⟨d, hd, rfl⟩ | ⟨hfault, -⟩ := h
  · obtain rfl := Option.some.inj hc
    exact ⟨hd, rfl⟩
  · rw [hfault, hs] at hc
    cases hc

/-- Settles O8: a raised fault empties the port and stops the block, and every other end leaves `FAULT` and delivers a status. -/
theorem commandEndsInStatusOrFault : Obligations.CommandEndsInStatusOrFault := by
  intro i s hs
  obtain ⟨t, hexec, ⟨c, -, rfl⟩ | ⟨hfault, r, hres, -⟩⟩ := exists_exec_endsInOwnRow i s
  · exact ⟨_, hexec, .inr ⟨c, rfl, .inl rfl, faultedBlockHasNoStep _ c rfl⟩⟩
  · exact ⟨t, hexec, .inl ⟨hfault.trans hs, r, hres⟩⟩

/-- Settles O51: the command raised the fault, and raising it is R172's effect. -/
theorem faultingCommandOnlySetsFault : Obligations.FaultingCommandOnlySetsFault := by
  intro i s t c hs h hc
  obtain ⟨-, rfl⟩ := (endsInOwnRow_of_exec h).eq_raise hs hc
  exact raise_onlyFault c s

/-- Settles O52: a fault was raised by the command within its rows, and so was a status returned, since a raised fault is not
none. -/
theorem outcomesOfTheirCommands : Obligations.OutcomesOfTheirCommands := by
  intro i s t hs h
  refine ⟨fun c hc => ((endsInOwnRow_of_exec h).eq_raise hs hc).1, fun r hnone hr => ?_⟩
  obtain ⟨c, -, rfl⟩ | ⟨-, r', hres, hret⟩ := endsInOwnRow_of_exec h
  · cases hnone
  · obtain rfl := Option.some.inj (hres.symm.trans hr)
    exact hret

end Sys2Proof.Machine
end

section
/-! SUPPORT. Proofs for spec/70_reset_and_hazards.md: waiting for a frame (R191), and write lists that share no address (R196). -/

namespace Sys2Proof.Machine

/-! ## Waiting (R191) -/

/-- Settles O7: with no frame presented command entry is idle. -/
theorem idleBlockWaits : Obligations.IdleBlockWaits := by
  intro s hfault hframes
  have hidle : s.entry = .idle := by rw [State.entry, hframes]
  simp only [step, hfault, hidle]

/-! ## Write lists that share no address (R196) -/

/-- Fewer answers are promised as well. -/
theorem AnswersOk.mono {s : State} {m n : Nat} (h : AnswersOk s n) (hmn : m ≤ n) : AnswersOk s m :=
  fun k hk => h k (hk.trans_le hmn)

/-- A write list uses up one of the promised answers for each of its writes. -/
theorem AnswersOk.perform {w : List Write} {s : State} {n : Nat} (h : AnswersOk s (w.length + n)) :
    AnswersOk (s.perform w) n := by
  induction w generalizing s with
  | nil => exact h.mono (Nat.le_add_left ..)
  | cons x w ih =>
    obtain ⟨a, v⟩ := x
    have h1 : AnswersOk s (w.length + n + 1) := h.mono (by rw [List.length_cons]; omega)
    rw [perform_cons, if_pos (h1.transportAnswer a v)]
    exact ih (h1.busWrite a v)

/-- R30: what an address reads after a write depends on no other address of the shadow before it. -/
theorem read_applyWrite_congr {m m' : Memory} {a : Nat} (e : LogEntry) (h : m.read a = m'.read a) :
    (m.applyWrite e).read a = (m'.applyWrite e).read a := by
  by_cases ha : a = e.addr.toNat
  · rw [ha, read_applyWrite_same, read_applyWrite_same]
  · rw [read_applyWrite_other m e ha, read_applyWrite_other m' e ha, h]

/-- The same of a run of writes. -/
theorem read_foldl_applyWrite_congr {m m' : Memory} {a : Nat} (es : List LogEntry) (h : m.read a = m'.read a) :
    (es.foldl Memory.applyWrite m).read a = (es.foldl Memory.applyWrite m').read a :=
  List.foldl_rel (r := fun n n' : Memory => n.read a = n'.read a) h fun e _ _ _ => read_applyWrite_congr e

/-- With every answer ok, an address that the first list leaves alone reads after both lists as after the second alone. -/
theorem read_perform_perform_of_untouched {w w' : List Write} {s : State} {a : Nat}
    (hans : AnswersOk s (w.length + w'.length)) (ha : ∀ x ∈ w, x.1.toNat ≠ a) :
    ((s.perform w).perform w').dev.read a = (s.perform w').dev.read a := by
  have hafter := result_perform_of_answersOk hans.perform
  have halone := result_perform_of_answersOk (hans.mono (Nat.le_add_left w'.length w.length))
  rw [dev_perform_of_ok hafter, dev_perform_of_ok halone]
  exact read_foldl_applyWrite_congr _ (read_perform_other s ha)

/-- Settles O48: one of the two lists leaves the address alone, so in either order it reads as after the other list alone. -/
theorem pllAndChannelOrderFree : Obligations.PllAndChannelOrderFree := by
  intro s wp wc hans hdisj a
  by_cases hp : ∃ x ∈ wp, x.1.toNat = a
  · obtain ⟨x, hx, rfl⟩ := hp
    have hc : ∀ y ∈ wc, y.1.toNat ≠ x.1.toNat := fun y hy heq => hdisj x hx y hy (BitVec.eq_of_toNat_eq heq.symm)
    exact (read_perform_other _ hc).trans (read_perform_perform_of_untouched (Nat.add_comm .. ▸ hans) hc).symm
  · have hp' : ∀ x ∈ wp, x.1.toNat ≠ a := fun x hx heq => hp ⟨x, hx, heq⟩
    exact (read_perform_perform_of_untouched hans hp').trans (read_perform_other _ hp').symm

end Sys2Proof.Machine
end
